-- ==== Sys2Proof/Word.lean ====
section
/-!
DEFINITION. The word types of the WetDelay CORE (spec 00 R15-R17, R23; 30 R100) and the plain names that other files
share: the two ports, the two filter types, the byte orders, the three readings of the early stop.
-/

namespace Sys2Proof

/-- A 32-bit command word (30 R100). -/
abbrev Word := BitVec 32

/-- One byte of host memory (20 R72). -/
abbrev Byte := BitVec 8

/-- A binary32 value, held as its bit pattern (00 R17). -/
abbrev F32 := BitVec 32

/-- A binary64 value, held as its bit pattern (00 R17). -/
abbrev F64 := BitVec 64

/-- The contents of an ARG or RES register (00 R23). -/
abbrev Reg64 := BitVec 64

/-- The two command ports: the audio port P0 and the control port P1 (10 R31, 60 R247). -/
inductive Port where
  | p0
  | p1
  deriving DecidableEq, Repr

/-- A filter's type, low-pass or high-pass (10 R44, 30 R104). -/
inductive FilterType where
  | lp
  | hp
  deriving DecidableEq, Repr

/-- `HOST_BYTE_ORDER` (00 R11). -/
inductive ByteOrder where
  | little
  | big
  deriving DecidableEq, Repr, Inhabited

/-- `DOWNSAMPLE_STOP`: the three readings of "Stops early if maxOutputCount reached" (00 R13, 41 R151). -/
inductive StopRule where
  | breakOuter
  | returnInner
  | drain
  deriving DecidableEq, Repr

/-- Which `COEF_FN` a machine has (00 R12, 40 R130): the decided default, or any other admitted function. -/
inductive CoefChoice where
  | rounded
  | free
  deriving DecidableEq, Repr

/-- A list of numbers that names ONE place in a run where the spec leaves a value open (a draw, the payload of a NaN):
the counter `State.free` at its end, then the stage, the sample and the operation in front. Distinct places have
distinct names, so nothing relates the values left open at two of them. -/
abbrev Site := List Nat

end Sys2Proof
end

