-- ==== Sys2Proof/Syntax.lean ====
section
/-!
DEFINITION. The commands of the CORE: one constructor per row of the opcode map (30 R105). The only in-word operands
are UNIT and MODE (30 R109); all others are in the ARG registers.
-/

namespace Sys2Proof

/-- A command word's meaning. `unit` is the UNIT field as it stands in the word, 4 bits (30 R103); which values are
legal is `Instr.wf`. -/
inductive Instr where
  /-- 0x01 PREPARE (42 R179) -/
  | prepare
  /-- 0x02 RESET (42 R187) -/
  | reset
  /-- 0x03 PROCESS_STEREO (42 R180) -/
  | processStereo
  /-- 0x04 AUDIO_BLOCK (44 R211) -/
  | audioBlock
  /-- 0x10 FLT_SETCOEF (40 R132) -/
  | fltSetcoef (unit : BitVec 4) (mode : FilterType)
  /-- 0x11 FLT_PROCESS (40 R133) -/
  | fltProcess (unit : BitVec 4)
  /-- 0x12 FLT_RESET (40 R134) -/
  | fltReset (unit : BitVec 4)
  /-- 0x20 RS_DOWNSAMPLE (41 R153) -/
  | rsDownsample (unit : BitVec 4)
  /-- 0x21 RS_UPSAMPLE (41 R154) -/
  | rsUpsample (unit : BitVec 4)
  /-- 0x22 RS_RESET (41 R155) -/
  | rsReset (unit : BitVec 4)
  /-- 0x30 DLY_STEP (42 R178) -/
  | dlyStep
  /-- 0x40 PEAK_UPDATE (43 R201) -/
  | peakUpdate (unit : BitVec 4)
  /-- 0x41 PEAK_READ (43 R202) -/
  | peakRead (unit : BitVec 4)
  /-- 0x50 DIDX_WRITE (44 R212) -/
  | didxWrite
  /-- 0x51 DIDX_READ (44 R213) -/
  | didxRead
  /-- 0x52 STATUS_READ (44 R214) -/
  | statusRead
  /-- 0x53 TESTCTL_WRITE (44 R215) -/
  | testctlWrite
  deriving DecidableEq, Repr

end Sys2Proof
end

