-- ==== Sys2Proof/WellFormed.lean ====
section
/-!
DEFINITION. Which commands are well formed (UNIT inside the row's range, 30 R103, R106-R108), which port accepts them
(30 R112), and which P0 still accepts in a dead session (60 R240).
-/

namespace Sys2Proof

/-- How many units a command's UNIT field selects among (30 R103): 8 filters, 4 resamplers, 4 peak channels, and one
(the value 0) for every other command. -/
def Instr.unitCount : Instr → Nat
  | .fltSetcoef _ _ | .fltProcess _ | .fltReset _ => 8
  | .rsDownsample _ | .rsUpsample _ | .rsReset _ => 4
  | .peakUpdate _ | .peakRead _ => 4
  | .prepare | .reset | .processStereo | .audioBlock | .dlyStep => 1
  | .didxWrite | .didxRead | .statusRead | .testctlWrite => 1

/-- The UNIT field of a command, 0 where it has none (30 R100). -/
def Instr.unit : Instr → BitVec 4
  | .fltSetcoef u _ | .fltProcess u | .fltReset u => u
  | .rsDownsample u | .rsUpsample u | .rsReset u => u
  | .peakUpdate u | .peakRead u => u
  | .prepare | .reset | .processStereo | .audioBlock | .dlyStep => 0
  | .didxWrite | .didxRead | .statusRead | .testctlWrite => 0

/-- The UNIT field is inside the row's range (30 R103, R111 (c)). -/
def Instr.wf (i : Instr) : Bool := decide (i.unit.toNat < i.unitCount)

/-- The rows the control port P1 accepts (30 R112). -/
def Instr.onControlPort : Instr → Bool
  | .peakRead _ | .didxWrite | .didxRead | .statusRead => true
  | .prepare | .reset | .processStereo | .audioBlock => false
  | .fltSetcoef _ _ | .fltProcess _ | .fltReset _ => false
  | .rsDownsample _ | .rsUpsample _ | .rsReset _ => false
  | .dlyStep | .peakUpdate _ | .testctlWrite => false

/-- A port accepts a command: P0 every row, P1 four of them (30 R112). -/
def Instr.acceptedOn (i : Instr) : Port → Bool
  | .p0 => true
  | .p1 => i.onControlPort

/-- The commands P0 still carries out while STATUS.FAULT = 1 (60 R240). -/
def Instr.servesDeadSession : Instr → Bool
  | .prepare | .statusRead => true
  | .reset | .processStereo | .audioBlock => false
  | .fltSetcoef _ _ | .fltProcess _ | .fltReset _ => false
  | .rsDownsample _ | .rsUpsample _ | .rsReset _ => false
  | .dlyStep | .peakUpdate _ | .peakRead _ | .didxWrite | .didxRead | .testctlWrite => false

end Sys2Proof
end

