-- ==== Sys2Proof/Decode.lean ====
section
/-!
DEFINITION. Command encoding (30 R100-R118): the decoder, total on every 32-bit word and rejecting by name, and the
encoder, written from the same table.
-/

namespace Sys2Proof

/-- Why a word is illegal (30 R111 (a)-(d), R112). All five raise the one fault ILLEGAL (60 R233). -/
inductive Illegal where
  /-- (a) OPC is no row of 30 R105. -/
  | opcode
  /-- (b) RSVD is not 0. -/
  | reserved
  /-- (c) UNIT is outside the row's range. -/
  | unit
  /-- (d) MODE is outside the row's range. -/
  | mode
  /-- The port does not accept the row (30 R112). -/
  | port
  deriving DecidableEq, Repr

/-- OPC, bits 31:24 (30 R100). -/
def opcField (w : Word) : BitVec 8 := w.extractLsb' 24 8

/-- UNIT, bits 23:20 (30 R100). -/
def unitField (w : Word) : BitVec 4 := w.extractLsb' 20 4

/-- MODE, bits 19:16 (30 R100). -/
def modeField (w : Word) : BitVec 4 := w.extractLsb' 16 4

/-- RSVD, bits 15:0 (30 R100). -/
def rsvdField (w : Word) : BitVec 16 := w.extractLsb' 0 16

/-- MODE 0 selects low-pass and MODE 1 high-pass (30 R104). -/
def filterTypeOf (mode : BitVec 4) : FilterType := if mode = 0#4 then .lp else .hp

/-- How many MODE values the row admits: two for FLT_SETCOEF, one (the value 0) for every other row (30 R104). -/
def Instr.modeCount : Instr → Nat
  | .fltSetcoef _ _ => 2
  | .prepare | .reset | .processStereo | .audioBlock => 1
  | .fltProcess _ | .fltReset _ | .rsDownsample _ | .rsUpsample _ | .rsReset _ => 1
  | .dlyStep | .peakUpdate _ | .peakRead _ => 1
  | .didxWrite | .didxRead | .statusRead | .testctlWrite => 1

/-- The opcode map of 30 R105: the row an OPC value names, with the word's UNIT and MODE. -/
def rowOf (opc : BitVec 8) (u : BitVec 4) (mode : BitVec 4) : Option Instr :=
  match opc.toNat with
  | 0x01 => some .prepare
  | 0x02 => some .reset
  | 0x03 => some .processStereo
  | 0x04 => some .audioBlock
  | 0x10 => some (.fltSetcoef u (filterTypeOf mode))
  | 0x11 => some (.fltProcess u)
  | 0x12 => some (.fltReset u)
  | 0x20 => some (.rsDownsample u)
  | 0x21 => some (.rsUpsample u)
  | 0x22 => some (.rsReset u)
  | 0x30 => some .dlyStep
  | 0x40 => some (.peakUpdate u)
  | 0x41 => some (.peakRead u)
  | 0x50 => some .didxWrite
  | 0x51 => some .didxRead
  | 0x52 => some .statusRead
  | 0x53 => some .testctlWrite
  | _ => none

/-- The decoder of 30 R114 without the port: total, and rejecting by name (30 R111). -/
def decode (w : Word) : Except Illegal Instr :=
  match rowOf (opcField w) (unitField w) (modeField w) with
  | none => .error .opcode
  | some i =>
    if rsvdField w ≠ 0#16 then .error .reserved
    else if i.unitCount ≤ (unitField w).toNat then .error .unit
    else if i.modeCount ≤ (modeField w).toNat then .error .mode
    else .ok i

/-- The decoder of 30 R114: the word, and whether the port that received it accepts the row (30 R112). -/
def decodeOn (p : Port) (w : Word) : Except Illegal Instr :=
  match decode w with
  | .error e => .error e
  | .ok i => if i.acceptedOn p then .ok i else .error .port

/-- OPC of a command (30 R105). -/
def Instr.opc : Instr → BitVec 8
  | .prepare => 0x01#8
  | .reset => 0x02#8
  | .processStereo => 0x03#8
  | .audioBlock => 0x04#8
  | .fltSetcoef _ _ => 0x10#8
  | .fltProcess _ => 0x11#8
  | .fltReset _ => 0x12#8
  | .rsDownsample _ => 0x20#8
  | .rsUpsample _ => 0x21#8
  | .rsReset _ => 0x22#8
  | .dlyStep => 0x30#8
  | .peakUpdate _ => 0x40#8
  | .peakRead _ => 0x41#8
  | .didxWrite => 0x50#8
  | .didxRead => 0x51#8
  | .statusRead => 0x52#8
  | .testctlWrite => 0x53#8

/-- MODE of a command: 1 for a high-pass FLT_SETCOEF, else 0 (30 R104). -/
def Instr.mode : Instr → BitVec 4
  | .fltSetcoef _ .hp => 1#4
  | .fltSetcoef _ .lp => 0#4
  | .prepare | .reset | .processStereo | .audioBlock => 0#4
  | .fltProcess _ | .fltReset _ | .rsDownsample _ | .rsUpsample _ | .rsReset _ => 0#4
  | .dlyStep | .peakUpdate _ | .peakRead _ => 0#4
  | .didxWrite | .didxRead | .statusRead | .testctlWrite => 0#4

/-- The word of a command: OPC, UNIT, MODE and RSVD = 0, from the most significant bit down (30 R100). -/
def encode (i : Instr) : Word := i.opc ++ i.unit ++ i.mode ++ 0#16

/-- One row of the opcode table as 30 R105 prints it: its match and mask words, and whether P1 accepts it. -/
structure TableRow where
  mnemonic : String
  pattern : Word
  mask : Word
  onP1 : Bool
  deriving DecidableEq, Repr

/-- The match and mask words of 30 R105, row by row. The decoder does not use them; a statement says that it agrees. -/
def opcodeTable : List TableRow :=
  [⟨"PREPARE", 0x01000000#32, 0xFFFFFFFF#32, false⟩,
   ⟨"RESET", 0x02000000#32, 0xFFFFFFFF#32, false⟩,
   ⟨"PROCESS_STEREO", 0x03000000#32, 0xFFFFFFFF#32, false⟩,
   ⟨"AUDIO_BLOCK", 0x04000000#32, 0xFFFFFFFF#32, false⟩] ++
  [⟨"FLT_SETCOEF", 0x10000000#32, 0xFF8EFFFF#32, false⟩,
   ⟨"FLT_PROCESS", 0x11000000#32, 0xFF8FFFFF#32, false⟩,
   ⟨"FLT_RESET", 0x12000000#32, 0xFF8FFFFF#32, false⟩] ++
  [⟨"RS_DOWNSAMPLE", 0x20000000#32, 0xFFCFFFFF#32, false⟩,
   ⟨"RS_UPSAMPLE", 0x21000000#32, 0xFFCFFFFF#32, false⟩,
   ⟨"RS_RESET", 0x22000000#32, 0xFFCFFFFF#32, false⟩] ++
  [⟨"DLY_STEP", 0x30000000#32, 0xFFFFFFFF#32, false⟩,
   ⟨"PEAK_UPDATE", 0x40000000#32, 0xFFCFFFFF#32, false⟩,
   ⟨"PEAK_READ", 0x41000000#32, 0xFFCFFFFF#32, true⟩] ++
  [⟨"DIDX_WRITE", 0x50000000#32, 0xFFFFFFFF#32, true⟩,
   ⟨"DIDX_READ", 0x51000000#32, 0xFFFFFFFF#32, true⟩,
   ⟨"STATUS_READ", 0x52000000#32, 0xFFFFFFFF#32, true⟩,
   ⟨"TESTCTL_WRITE", 0x53000000#32, 0xFFFFFFFF#32, false⟩]

/-- A word encodes a row when `(w AND mask) == match` (30 R105). -/
def TableRow.matches (r : TableRow) (w : Word) : Bool := (w &&& r.mask) == r.pattern

/-- The opcode-table mnemonic of a command (30 R105). -/
def Instr.mnemonic : Instr → String
  | .prepare => "PREPARE"
  | .reset => "RESET"
  | .processStereo => "PROCESS_STEREO"
  | .audioBlock => "AUDIO_BLOCK"
  | .fltSetcoef _ _ => "FLT_SETCOEF"
  | .fltProcess _ => "FLT_PROCESS"
  | .fltReset _ => "FLT_RESET"
  | .rsDownsample _ => "RS_DOWNSAMPLE"
  | .rsUpsample _ => "RS_UPSAMPLE"
  | .rsReset _ => "RS_RESET"
  | .dlyStep => "DLY_STEP"
  | .peakUpdate _ => "PEAK_UPDATE"
  | .peakRead _ => "PEAK_READ"
  | .didxWrite => "DIDX_WRITE"
  | .didxRead => "DIDX_READ"
  | .statusRead => "STATUS_READ"
  | .testctlWrite => "TESTCTL_WRITE"

/-- What the decoder reads from an instruction whose bits, numbered as the opcode table numbers them, are `w`: the one
32-bit word of the format (30 R100), every bit above `nbits` being 0. -/
def decodeTableWord (nbits w : Nat) : Option Instr :=
  match decode (BitVec.ofNat 32 (w % 2 ^ min nbits 32)) with
  | .ok i => some i
  | .error _ => none

end Sys2Proof
end

