-- ==== Sys2Proof/Config.lean ====
section
/-!
DEFINITION. What the spec leaves to the implementation or to the moment (00 R9-R14, R21; 92 "Open parameters"; 93).
Every open value is an uninterpreted constant: nothing in Lean can evaluate it. The named parameters are gathered in
`Params`, plain data that a `State` carries and no step writes; the free values are functions of a `Site`.
-/

namespace Sys2Proof

/-- The machine's parameters (92 "Open parameters"). -/
structure Params where
  /-- `DELAY_RAM_WORDS`, at least 24 (00 R9). -/
  delayRamWords : Nat
  /-- `SCRATCH_CAP`, at least 1 (00 R10). -/
  scratchCap : Nat
  /-- `HOST_BYTE_ORDER` (00 R11). -/
  byteOrder : ByteOrder
  /-- `DOWNSAMPLE_STOP`, decided `RETURN_INNER` (00 R13). -/
  stop : StopRule
  /-- `COEF_FN` (00 R12). -/
  coef : CoefChoice
  /-- `PEAK_INIT[0..3]`, non-negative and not NaN (00 R14). -/
  peakInit : Vector F32 4
  /-- `PORT_BASE`, which no rule reads (20 R81). -/
  portBase : BitVec 64
  deriving DecidableEq, Repr

/-- `DELAY_RAM_WORDS - 24`: any natural number (00 R9). -/
opaque Config.delayRamExtra : Nat

/-- `SCRATCH_CAP - 1`: any natural number (00 R10). -/
opaque Config.scratchExtra : Nat

/-- `HOST_BYTE_ORDER`: either value (00 R11). -/
opaque Config.hostByteOrder : ByteOrder

/-- `PORT_BASE`: any address (20 R81). -/
opaque Config.portBase : BitVec 64

/-- Raw bits from which `PEAK_INIT[c]` is made (00 R14). -/
opaque Config.freePeakInit : Nat → BitVec 32

/-- Raw bits from which `COEF_FN (fs, fc)` is made (00 R12): a function of the two operands alone. -/
opaque Config.freeCoef : F64 → F64 → BitVec 32

/-- Raw bits from which a `draw()` is made (00 R21). -/
opaque Config.freeDraw : Site → BitVec 32

/-- Raw bits from which a binary32 NaN is made (00 R18, 93 U6). -/
opaque Config.freeNan32 : Site → BitVec 32

/-- Raw bits from which a binary64 NaN is made (00 R18, 93 U6). -/
opaque Config.freeNan64 : Site → BitVec 64

/-- A raw number from which `wpReset` is made (42 R188). -/
opaque Config.freeCursor : Site → Nat

/-- Whether P1 moves before P0 where both have work and the host's schedule says nothing (20 R84). -/
opaque Config.controlFirst : Site → Bool

end Sys2Proof
end

