-- ==== Sys2Proof/Machine/State.lean ====
section
/-!
DEFINITION. The state of the CORE (10 R30-R54) as plain data, the reasons a step can stop, and the state after power-on.

"Unwritten" is the spec's own state of a register (00 R20): a register that can be unwritten is an `Option`, and a
command that reads it while it is `none` TAKES the architectural fault UNINIT (60 R236), which is a next state.
-/

namespace Sys2Proof.Machine

/-- The five causes of 60 R231. -/
inductive Cause where
  | illegal
  | memory
  | precondition
  | uninit
  | alloc
  deriving DecidableEq, Repr

/-- What an entry of FAULT_LOG records (60 R238, R240): a fault's cause, or a refusal in a dead session. -/
inductive Verdict where
  | fault (c : Cause)
  | refused
  deriving DecidableEq, Repr

/-- An entry of FAULT_LOG (60 R238). -/
structure LogEntry where
  port : Port
  word : Word
  what : Verdict
  deriving DecidableEq, Repr

/-- One port's interface registers (10 R31). `cmd` holds the command word from the host's write until the command
completes (70 R266); the ARG and RES registers are `none` while unwritten. -/
structure PortRegs where
  cmd : Option Word
  args : Vector (Option Reg64) 8
  res0 : Option Reg64
  res1 : Option Reg64
  deriving DecidableEq, Repr

/-- One filter unit's four registers (10 R44). -/
structure FilterUnit where
  a : Option F32
  kind : Option FilterType
  yPrev : Option F32
  xPrev : Option F32
  deriving DecidableEq, Repr

/-- One resampler unit's two registers (10 R46). -/
structure ResamplerUnit where
  phase : Option F64
  last : Option F32
  deriving DecidableEq, Repr

/-- Left or right, within one sample (44 R211). -/
inductive Side where
  | left
  | right
  deriving DecidableEq, Repr

/-- The next atomic sub-step of an AUDIO_BLOCK whose S0 has been done (44 R211): S1[i].L or S1[i].R, S2, S3[i].L or
S3[i].R. -/
inductive BlockStage where
  | meterIn (i : Nat) (side : Side)
  | process
  | meterOut (i : Nat) (side : Side)
  deriving DecidableEq, Repr

/-- An AUDIO_BLOCK in progress: its operands, `idx` (the snapshot of DELAY_INDEX taken in S0) and the next sub-step
(44 R211, 20 R85). -/
structure Block where
  inL : Nat
  inR : Nat
  outL : Nat
  outR : Nat
  n : Nat
  idx : Fin 6
  stage : BlockStage
  deriving DecidableEq, Repr

/-- What the host does (10 R31, 70 R266, 20 R87, 60 R249), and the schedule's word that a port takes a step (20 R84). -/
inductive HostEvent where
  /-- The host writes ARGk of a port. -/
  | writeArg (p : Port) (k : Fin 8) (v : Reg64)
  /-- The host writes CMD of a port, which starts the command. -/
  | writeCmd (p : Port) (w : Word)
  /-- The host reads RES0 or RES1 of a port. -/
  | readRes (p : Port) (k : Fin 2)
  /-- The host writes one byte of host memory. -/
  | writeMem (addr : BitVec 64) (b : Byte)
  /-- The host reads one byte of host memory. -/
  | readMem (addr : BitVec 64)
  /-- The schedule: the port takes one atomic step, if it has a command. -/
  | run (p : Port)
  /-- A power cycle (60 R249, 70 R260 (a)). -/
  | powerCycle
  deriving DecidableEq, Repr

/-- The reasons a step stops with a fault of the MODEL. None is an architectural fault (those are next states). -/
inductive Fault where
  /-- Raised by the host's part of a step (`hostStep`) when the host writes a byte of an input array, or touches a byte
  of an output array, of a command that is running. 20 R87 and 70 R267 give such a run no meaning and 93 H1 calls it
  stuck. A command that is refused, does nothing or ends with a fault runs on no array and stops nothing. Safe: the
  model stops where the spec describes nothing. -/
  | hostTouchedBusyArray
  deriving DecidableEq, Repr

/-- The reasons a step refuses. No instruction's meaning answers with one. -/
inductive Refusal where
  /-- Raised by an arm of `exec` for a command without a meaning. Safe: the model stops. No arm raises it now. -/
  | notModelled (mnemonic : String)
  deriving DecidableEq, Repr

/-- The state of the machine. -/
structure State where
  /-- The machine's parameters; no step writes them (92 "Open parameters"). -/
  params : Params
  /-- Interface registers of the audio port (10 R31). -/
  p0 : PortRegs
  /-- Interface registers of the control port (10 R31). -/
  p1 : PortRegs
  /-- STATUS.FAULT and STATUS.CAUSE (10 R35): `none` reads FAULT = 0, CAUSE = 0. -/
  fault : Option Cause
  /-- DELAY_INDEX (10 R36): 0..5, 6 and 7 are never held. -/
  delayIndex : Option (Fin 6)
  /-- TESTCTL (10 R37). -/
  testctl : BitVec 32
  /-- HOST_RATE (10 R40). -/
  hostRate : Option F64
  /-- LEN (10 R41). -/
  len : Nat
  /-- WRITE_POS (10 R42). -/
  writePos : Option Nat
  /-- F[0..7] (10 R43, R44). -/
  filters : Vector FilterUnit 8
  /-- S[0..3] (10 R46). -/
  resamplers : Vector ResamplerUnit 4
  /-- BUF_L (10 R45): the words that are not +0.0, by rising index. -/
  bufL : List (Nat × F32)
  /-- BUF_R (10 R45): the words that are not +0.0, by rising index. -/
  bufR : List (Nat × F32)
  /-- PEAK[0..3] (10 R47). -/
  peaks : Vector F32 4
  /-- The AUDIO_BLOCK in progress on P0 (44 R211, 20 R84). -/
  block : Option Block
  /-- Host memory (20 R72): the bytes that are not what an unlisted byte reads as, by rising address. -/
  mem : List Host.Cell
  /-- FAULT_LOG, oldest first (60 R238). -/
  faultLog : List LogEntry
  /-- The model's own: what the host does next, oldest first. -/
  inputs : List HostEvent
  /-- The model's own: the port whose command is being carried out. -/
  active : Port
  /-- The model's own: names the next place where a value is left open. -/
  free : Nat
  deriving DecidableEq, Repr

/-- Interface registers no host has written (10 R54). -/
def PortRegs.unwritten : PortRegs :=
  { cmd := none, args := Vector.replicate 8 none, res0 := none, res1 := none }

/-- A filter unit at power-on (10 R44, R54). -/
def FilterUnit.unwritten : FilterUnit := { a := none, kind := none, yPrev := none, xPrev := none }

/-- A resampler unit at power-on (10 R46, R54). -/
def ResamplerUnit.unwritten : ResamplerUnit := { phase := none, last := none }

/-- The state after power-on of a machine with the given parameters (10 R54). DESIGN CHOICE (log entry 16): both delay RAMs
list nothing, so every word reads +0.0, where 70 R262 and 93 U19 leave the contents open; LEN is 0, so no rule reads one
before PREPARE writes it. -/
def State.powerOn (c : Params) : State :=
  { params := c
    p0 := PortRegs.unwritten
    p1 := PortRegs.unwritten
    fault := none
    delayIndex := none
    testctl := 0#32
    hostRate := none
    len := 0
    writePos := none
    filters := Vector.replicate 8 FilterUnit.unwritten
    resamplers := Vector.replicate 4 ResamplerUnit.unwritten
    bufL := []
    bufR := []
    peaks := c.peakInit
    block := none
    mem := []
    faultLog := []
    inputs := []
    active := .p0
    free := 0 }

/-- Raw bits are an admitted `PEAK_INIT[c]` when they are not a NaN and not below zero: the magnitudes up to +infinity,
and -0.0 (00 R14). -/
def admittedPeak (bits : BitVec 32) : F32 :=
  if bits.toNat ≤ 0x7F800000 ∨ bits = 0x80000000#32 then bits else 0#32

/-- The parameters of the machine: every open one uninterpreted, the decided one as decided (00 R9-R14). -/
def machineParams : Params :=
  { delayRamWords := Config.delayRamExtra + 24
    scratchCap := Config.scratchExtra + 1
    byteOrder := Config.hostByteOrder
    stop := .returnInner
    coef := .free
    peakInit := #v[admittedPeak (Config.freePeakInit 0), admittedPeak (Config.freePeakInit 1),
                   admittedPeak (Config.freePeakInit 2), admittedPeak (Config.freePeakInit 3)]
    portBase := Config.portBase }

/-- The machine right after power-on (10 R54, 70 R260). -/
def State.reset : State := State.powerOn machineParams

end Sys2Proof.Machine
end

