-- ==== Sys2Proof/Machine/Flags.lean ====
section
/-!
DEFINITION. The status word (10 R35) and the test-control bit (10 R38). The CORE has no condition codes and no
arithmetic flag (10 R34).
-/

namespace Sys2Proof.Machine

/-- The code STATUS.CAUSE records (60 R231). -/
def Cause.code : Cause → BitVec 4
  | .illegal => 1#4
  | .memory => 2#4
  | .precondition => 3#4
  | .uninit => 4#4
  | .alloc => 5#4

/-- STATUS.PREPARED, a view of LEN (10 R35, R39, R41). -/
def State.prepared (s : State) : Bool := decide (0 < s.len)

/-- STATUS.FAULT (10 R35). -/
def State.faulted (s : State) : Bool := s.fault.isSome

/-- STATUS.CAUSE: 0 while FAULT = 0 (10 R35). -/
def State.causeCode (s : State) : BitVec 4 :=
  match s.fault with
  | some c => c.code
  | none => 0#4

/-- STATUS as it is read whole (10 R35): bits 31:8 zero, CAUSE, bits 3:2 zero, FAULT, PREPARED. -/
def State.statusWord (s : State) : BitVec 32 :=
  0#24 ++ s.causeCode ++ 0#2 ++ BitVec.ofBool s.faulted ++ BitVec.ofBool s.prepared

/-- TESTCTL.NORAND (10 R37, R38). -/
def State.norand (s : State) : Bool := s.testctl.getLsbD 0

end Sys2Proof.Machine
end

