-- ==== Sys2Proof/Machine/Float.lean ====
section
/-!
DEFINITION. The floating-point operations of the spec (00 R17-R19), on bit patterns.

A finite value is held as a whole number of units of the format's least subnormal (2^-149 or 2^-1074). Each operation
is computed exactly on whole numbers and rounded ONCE, to nearest with ties to even (`roundMag`). A NaN result is a free
value among the NaNs (00 R18, 93 U6), named by the operation's `Site`.
-/

namespace Sys2Proof.Machine

/-- An IEEE 754 binary format: widths of the exponent and fraction fields (00 R17). -/
structure Fmt where
  expBits : Nat
  fracBits : Nat
  deriving DecidableEq, Repr

/-- binary32 -/
def fmt32 : Fmt := { expBits := 8, fracBits := 23 }

/-- binary64 -/
def fmt64 : Fmt := { expBits := 11, fracBits := 52 }

/-- The weight of the sign bit; a bit pattern below it is a magnitude. -/
def Fmt.signBit (f : Fmt) : Nat := 2 ^ (f.expBits + f.fracBits)

/-- The magnitude bits of infinity; larger magnitudes are NaNs. -/
def Fmt.infMag (f : Fmt) : Nat := (2 ^ f.expBits - 1) * 2 ^ f.fracBits

/-- 1.0 in units of the least subnormal is `2 ^ f.scale`: 149 for binary32, 1074 for binary64. -/
def Fmt.scale (f : Fmt) : Nat := 2 ^ (f.expBits - 1) - 2 + f.fracBits

/-- The magnitude field of a bit pattern. -/
def magOf (f : Fmt) (bits : Nat) : Nat := bits % f.signBit

/-- The sign of a bit pattern. -/
def isNeg (f : Fmt) (bits : Nat) : Bool := decide (f.signBit ≤ bits)

/-- A NaN: a magnitude above infinity's. -/
def isNanBits (f : Fmt) (bits : Nat) : Bool := decide (f.infMag < magOf f bits)

/-- An infinity of either sign. -/
def isInfBits (f : Fmt) (bits : Nat) : Bool := magOf f bits == f.infMag

/-- The value of a finite magnitude in units of the least subnormal, exact. -/
def units (f : Fmt) (mag : Nat) : Nat :=
  let e := mag / 2 ^ f.fracBits
  if e = 0 then mag else (2 ^ f.fracBits + mag % 2 ^ f.fracBits) * 2 ^ (e - 1)

/-- The signed value of a finite bit pattern in units of the least subnormal. -/
def signedUnits (f : Fmt) (bits : Nat) : Int :=
  if isNeg f bits then -(units f (magOf f bits) : Int) else (units f (magOf f bits) : Int)

/-- The quotient rounded to the nearest whole number, a tie to the even one. -/
def nearestEven (num den : Nat) : Nat :=
  let q := num / den
  let r := num % den
  if den < 2 * r ∨ (2 * r = den ∧ q % 2 = 1) then q + 1 else q

/-- The magnitude bits of the value `num / den` units of the least subnormal, rounded to nearest even; at or past the
overflow threshold, infinity (00 R18). -/
def roundMag (f : Fmt) (num den : Nat) : Nat :=
  let sh := Nat.log2 (num / den) - f.fracBits
  min (sh * 2 ^ f.fracBits + nearestEven num (den * 2 ^ sh)) f.infMag

/-- A bit pattern from a sign and a magnitude. -/
def packBits (f : Fmt) (neg : Bool) (mag : Nat) : Nat := if neg then f.signBit + mag else mag

/-- `a + b` (00 R18); `none` stands for a NaN. An exact zero sum is +0.0 unless both operands are -0.0. -/
def addBits (f : Fmt) (a b : Nat) : Option Nat :=
  if isNanBits f a || isNanBits f b then none
  else if isInfBits f a then (if isInfBits f b && (isNeg f a != isNeg f b) then none else some a)
  else if isInfBits f b then some b
  else
    let v := signedUnits f a + signedUnits f b
    if v = 0 then some (packBits f (isNeg f a && isNeg f b) 0)
    else some (packBits f (decide (v < 0)) (roundMag f v.natAbs 1))

/-- `-a`: the sign bit flipped. -/
def negBits (f : Fmt) (a : Nat) : Nat := packBits f (!isNeg f a) (magOf f a)

/-- `a * b` (00 R18). -/
def mulBits (f : Fmt) (a b : Nat) : Option Nat :=
  let neg := isNeg f a != isNeg f b
  if isNanBits f a || isNanBits f b then none
  else if isInfBits f a || isInfBits f b then
    (if magOf f a = 0 ∨ magOf f b = 0 then none else some (packBits f neg f.infMag))
  else some (packBits f neg (roundMag f (units f (magOf f a) * units f (magOf f b)) (2 ^ f.scale)))

/-- `a / b` (00 R18). -/
def divBits (f : Fmt) (a b : Nat) : Option Nat :=
  let neg := isNeg f a != isNeg f b
  if isNanBits f a || isNanBits f b then none
  else if isInfBits f a then (if isInfBits f b then none else some (packBits f neg f.infMag))
  else if isInfBits f b then some (packBits f neg 0)
  else if magOf f b = 0 then (if magOf f a = 0 then none else some (packBits f neg f.infMag))
  else some (packBits f neg (roundMag f (units f (magOf f a) * 2 ^ f.scale) (units f (magOf f b))))

/-- The greatest integer not above `a`, as a value of the format; exact, and a zero result keeps the operand's sign
(00 R18 `floor32`). -/
def floorBits (f : Fmt) (a : Nat) : Option Nat :=
  if isNanBits f a then none
  else if isInfBits f a then some a
  else
    let k := units f (magOf f a)
    let q := k / 2 ^ f.scale
    let whole := if isNeg f a && decide (k % 2 ^ f.scale ≠ 0) then q + 1 else q
    some (packBits f (isNeg f a) (roundMag f (whole * 2 ^ f.scale) 1))

/-- A conversion between formats (00 R18 `cvt32`, `cvt64`), rounded once. Widening is exact. -/
def convertBits (src dst : Fmt) (a : Nat) : Option Nat :=
  if isNanBits src a then none
  else if isInfBits src a then some (packBits dst (isNeg src a) dst.infMag)
  else some (packBits dst (isNeg src a)
    (roundMag dst (units src (magOf src a) * 2 ^ dst.scale) (2 ^ src.scale)))

/-- A bit pattern's place in the IEEE order: sign and magnitude as one integer, both zeros 0 (00 R18). -/
def orderKey (f : Fmt) (bits : Nat) : Int :=
  if isNeg f bits then -(magOf f bits : Int) else (magOf f bits : Int)

/-- IEEE ordered `<`: false when either operand is NaN (00 R18). -/
def ltBits (f : Fmt) (a b : Nat) : Bool :=
  !isNanBits f a && !isNanBits f b && decide (orderKey f a < orderKey f b)

/-- IEEE ordered `>=` (00 R18). -/
def geBits (f : Fmt) (a b : Nat) : Bool :=
  !isNanBits f a && !isNanBits f b && decide (orderKey f b ≤ orderKey f a)

/-- A binary32 bit pattern is a NaN. -/
def isNan32 (a : F32) : Bool := isNanBits fmt32 a.toNat

/-- A binary64 bit pattern is a NaN. -/
def isNan64 (a : F64) : Bool := isNanBits fmt64 a.toNat

/-- The NaN an operation at this place produces: any NaN, of any payload and sign (00 R18, 93 U6). -/
def nan32 (p : Site) : F32 := if isNan32 (Config.freeNan32 p) then Config.freeNan32 p else 0x7FC00000#32

/-- The NaN a binary64 operation at this place produces (00 R18, 93 U6). -/
def nan64 (p : Site) : F64 := if isNan64 (Config.freeNan64 p) then Config.freeNan64 p else 0x7FF8000000000000#64

/-- A binary32 result, or some NaN. -/
def result32 (p : Site) : Option Nat → F32
  | some m => BitVec.ofNat 32 m
  | none => nan32 p

/-- A binary64 result, or some NaN. -/
def result64 (p : Site) : Option Nat → F64
  | some m => BitVec.ofNat 64 m
  | none => nan64 p

/-- `add32` (00 R18) -/
def add32 (p : Site) (a b : F32) : F32 := result32 p (addBits fmt32 a.toNat b.toNat)

/-- `sub32` (00 R18) -/
def sub32 (p : Site) (a b : F32) : F32 := result32 p (addBits fmt32 a.toNat (negBits fmt32 b.toNat))

/-- `mul32` (00 R18) -/
def mul32 (p : Site) (a b : F32) : F32 := result32 p (mulBits fmt32 a.toNat b.toNat)

/-- `div32` (00 R18) -/
def div32 (p : Site) (a b : F32) : F32 := result32 p (divBits fmt32 a.toNat b.toNat)

/-- `add64` (00 R18) -/
def add64 (p : Site) (a b : F64) : F64 := result64 p (addBits fmt64 a.toNat b.toNat)

/-- `sub64` (00 R18) -/
def sub64 (p : Site) (a b : F64) : F64 := result64 p (addBits fmt64 a.toNat (negBits fmt64 b.toNat))

/-- `mul64` (00 R18) -/
def mul64 (p : Site) (a b : F64) : F64 := result64 p (mulBits fmt64 a.toNat b.toNat)

/-- `div64` (00 R18) -/
def div64 (p : Site) (a b : F64) : F64 := result64 p (divBits fmt64 a.toNat b.toNat)

/-- `cvt32`: binary64 to binary32 (00 R18) -/
def cvt32 (p : Site) (a : F64) : F32 := result32 p (convertBits fmt64 fmt32 a.toNat)

/-- `cvt64`: binary32 to binary64, exact (00 R18) -/
def cvt64 (p : Site) (a : F32) : F64 := result64 p (convertBits fmt32 fmt64 a.toNat)

/-- `floor32`: exact (00 R18) -/
def floor32 (p : Site) (a : F32) : F32 := result32 p (floorBits fmt32 a.toNat)

/-- `i2f64`: an integer to binary64, rounded once; exact for every int32 (00 R18) -/
def i2f64 (n : Int) : F64 := BitVec.ofNat 64 (packBits fmt64 (decide (n < 0)) (roundMag fmt64 (n.natAbs * 2 ^ fmt64.scale) 1))

/-- `abs32` clears the sign bit (00 R18). -/
def abs32 (a : F32) : F32 := a &&& 0x7FFFFFFF#32

/-- `lt` on binary32 -/
def lt32 (a b : F32) : Bool := ltBits fmt32 a.toNat b.toNat

/-- `gt` on binary32 -/
def gt32 (a b : F32) : Bool := ltBits fmt32 b.toNat a.toNat

/-- `ge` on binary32 -/
def ge32 (a b : F32) : Bool := geBits fmt32 a.toNat b.toNat

/-- `lt` on binary64 -/
def lt64 (a b : F64) : Bool := ltBits fmt64 a.toNat b.toNat

/-- `gt` on binary64 -/
def gt64 (a b : F64) : Bool := ltBits fmt64 b.toNat a.toNat

/-- `ge` on binary64 -/
def ge64 (a b : F64) : Bool := geBits fmt64 a.toNat b.toNat

/-- `isFinite` on binary64: neither infinite nor NaN (00 R18). -/
def isFinite64 (a : F64) : Bool := decide (magOf fmt64 a.toNat < fmt64.infMag)

/-- The floor of a non-negative finite binary64 value as an exact integer. A negative or non-finite value, which no
reachable state gives it (log entry 13), has the floor 0 here. -/
def floorNat64 (a : F64) : Nat :=
  if isFinite64 a && !isNeg fmt64 a.toNat then units fmt64 (magOf fmt64 a.toNat) / 2 ^ fmt64.scale else 0

/-- +1.0 in binary32 -/
def one32 : F32 := 0x3F800000#32

/-- 0.5 in binary32 -/
def half32 : F32 := 0x3F000000#32

/-- -1.0 in binary32 -/
def minusOne32 : F32 := 0xBF800000#32

/-- +1.0 in binary64 -/
def one64 : F64 := 0x3FF0000000000000#64

/-- +2.0 in binary64 -/
def two64 : F64 := 0x4000000000000000#64

/-- `INTERNAL_RATE` = 24000.0 (00 R3, R8) -/
def internalRate : F64 := 0x40D7700000000000#64

/-- 20000.0, the bound PREPARE puts on the host rate (42 R179) -/
def minHostRate : F64 := 0x40D3880000000000#64

/-- `AA_CUTOFF` = 10000.0 (00 R8) -/
def aaCutoff : F64 := 0x40C3880000000000#64

/-- `HP_CUTOFF` = 80.0 (00 R8) -/
def hpCutoff : F64 := 0x4054000000000000#64

/-- `LP_CUTOFF` = 9000.0 (00 R8) -/
def lpCutoff : F64 := 0x40C1940000000000#64

/-- `XTALK_K` (00 R8) -/
def xtalkK : F32 := 0x3C23D70A#32

/-- `QSTEPS` = 4096.0 (00 R8) -/
def qsteps : F32 := 0x45800000#32

/-- `DITHER_SCALE` = 2^-13 (00 R8) -/
def ditherScale : F32 := 0x39000000#32

/-- `NOISE_SCALE` (00 R8) -/
def noiseScale : F32 := 0x38D1B717#32

/-- `PEAK_DECAY` (00 R8) -/
def peakDecay : F32 := 0x3F7FDF3B#32

end Sys2Proof.Machine
end

