-- ==== Sys2Proof/Machine/Operands.lean ====
section
/-!
DEFINITION. The operand forms (00 R23, 30 R109): how a command reads an ARG register of the port it was issued on, by
type, and how it writes a RES register of that port (30 R110). A read of an unwritten ARG is UNINIT (10 R31).
-/

namespace Sys2Proof.Machine

/-- The interface registers of a port (10 R31). -/
def State.port (s : State) : Port → PortRegs
  | .p0 => s.p0
  | .p1 => s.p1

/-- Replace the interface registers of a port. -/
def State.setPort (s : State) (p : Port) (r : PortRegs) : State :=
  match p with
  | .p0 => { s with p0 := r }
  | .p1 => { s with p1 := r }

/-- A register's value, or UNINIT while it is unwritten (00 R20). -/
def written {α : Type} : Option α → Except Cause α
  | some v => .ok v
  | none => .error .uninit

/-- ARGk of the port the command was issued on, all 64 bits (10 R31). -/
def State.arg (s : State) (k : Fin 8) : Except Cause Reg64 := written (s.port s.active).args[k]

/-- An `f64` operand: all 64 bits (00 R23). -/
def State.argF64 (s : State) (k : Fin 8) : Except Cause F64 := s.arg k

/-- The low half of an ARG value (00 R23). -/
def lowHalf (v : Reg64) : BitVec 32 := v.extractLsb' 0 32

/-- An `f32` operand: bits 31:0; bits 63:32 are ignored (00 R23). -/
def State.argF32 (s : State) (k : Fin 8) : Except Cause F32 := (s.arg k).map lowHalf

/-- An `i32` operand: bits 31:0 as int32; bits 63:32 are ignored (00 R23). -/
def State.argI32 (s : State) (k : Fin 8) : Except Cause Int := (s.arg k).map fun v => (lowHalf v).toInt

/-- An `addr` operand: all 64 bits as an unsigned byte address (00 R23). -/
def State.argAddr (s : State) (k : Fin 8) : Except Cause Nat := (s.arg k).map BitVec.toNat

/-- An `f32` result: the bit pattern zero-extended (00 R23). -/
def resF32 (v : F32) : Reg64 := v.setWidth 64

/-- An `i32` result, sign-extended (00 R23). -/
def resI32 (v : Int) : Reg64 := BitVec.ofInt 64 v

/-- Write RES0 of the port the command was issued on (10 R32). -/
def State.setRes0 (s : State) (v : Reg64) : State :=
  s.setPort s.active { s.port s.active with res0 := some v }

/-- Write RES1 of the port the command was issued on (10 R32). -/
def State.setRes1 (s : State) (v : Reg64) : State :=
  s.setPort s.active { s.port s.active with res1 := some v }

end Sys2Proof.Machine
end

