-- ==== Sys2Proof/Machine/Ops.lean ====
section
/-!
DEFINITION. The named operations over memory and registers: sparse cells (host memory and delay RAM), host arrays and
their checks (20 R72-R80), the free values (00 R21, 42 R188), taking a fault (60 R238), the refusal of a dead session
(60 R240), and the order of tests every command shares (60 R237). There is no return from a fault (60 R241).
-/

namespace Sys2Proof.Machine

/-- What an unlisted byte of host memory, or an unlisted live word of delay RAM, reads as: zero. For delay RAM this is
what PREPARE and RESET leave (42 R179, R187). For host memory it is DESIGN CHOICE, unsafe (log entry 4). -/
def unlisted {w : Nat} : BitVec w := 0#w

/-- Read one cell. -/
def cellsGet {w : Nat} : List (Nat × BitVec w) → Nat → BitVec w
  | [], _ => unlisted
  | (k, v) :: rest, a => if k = a then v else cellsGet rest a

/-- Write one cell, keeping the canonical form: keys strictly rising, no cell equal to what an unlisted one reads as. -/
def cellsSet {w : Nat} : List (Nat × BitVec w) → Nat → BitVec w → List (Nat × BitVec w)
  | [], a, v => if v = unlisted then [] else [(a, v)]
  | (k, u) :: rest, a, v =>
    if a < k then (if v = unlisted then (k, u) :: rest else (a, v) :: (k, u) :: rest)
    else if a = k then (if v = unlisted then rest else (a, v) :: rest)
    else (k, u) :: cellsSet rest a v

/-- Return the cells below `n` to what an unlisted cell reads as. -/
def cellsClearBelow {w : Nat} (cells : List (Nat × BitVec w)) (n : Nat) : List (Nat × BitVec w) :=
  cells.filter fun c => decide (n ≤ c.1)

/-- The canonical form: keys strictly rising, no cell equal to what an unlisted one reads as. -/
def cellsWf {w : Nat} : List (Nat × BitVec w) → Bool
  | [] => true
  | (k, v) :: rest =>
    decide (v ≠ unlisted) && (match rest with | [] => true | (k', _) :: _ => decide (k < k')) && cellsWf rest

/-- The canonical form of host memory. -/
def Memory.wf (m : List Host.Cell) : Bool := cellsWf m

/-- One byte of host memory (20 R72). -/
def State.byteAt (s : State) (a : Nat) : Byte := cellsGet s.mem a

/-- `MemRead (addr, 4)`: four bytes assembled in `HOST_BYTE_ORDER` (20 R73). -/
def memRead (o : ByteOrder) (m : List Host.Cell) (addr : Nat) : F32 :=
  let b0 : Byte := cellsGet m addr
  let b1 : Byte := cellsGet m (addr + 1)
  let b2 : Byte := cellsGet m (addr + 2)
  let b3 : Byte := cellsGet m (addr + 3)
  match o with
  | .little => b3 ++ b2 ++ b1 ++ b0
  | .big => b0 ++ b1 ++ b2 ++ b3

/-- Byte `j` of an element in `HOST_BYTE_ORDER`: the byte stored at `addr + j` (20 R73). -/
def elementByte (o : ByteOrder) (v : F32) (j : Nat) : Byte :=
  match o with
  | .little => v.extractLsb' (8 * j) 8
  | .big => v.extractLsb' (24 - 8 * j) 8

/-- `MemWrite (addr, 4, v)` (20 R73). -/
def memWrite (o : ByteOrder) (m : List Host.Cell) (addr : Nat) (v : F32) : List Host.Cell :=
  cellsSet (cellsSet (cellsSet (cellsSet m addr (elementByte o v 0)) (addr + 1) (elementByte o v 1))
    (addr + 2) (elementByte o v 2)) (addr + 3) (elementByte o v 3)

/-- Read the `n` elements of the array at `base`; element `i` is at `base + 4*i` (20 R72). -/
def readArray (o : ByteOrder) (m : List Host.Cell) (base : Nat) : Nat → List F32
  | 0 => []
  | n + 1 => memRead o m base :: readArray o m (base + 4) n

/-- Write elements to the array at `base`, in index order (20 R72). -/
def writeArray (o : ByteOrder) (m : List Host.Cell) (base : Nat) : List F32 → List Host.Cell
  | [] => m
  | y :: ys => writeArray o (memWrite o m base y) (base + 4) ys

/-- Write the left and right output arrays element by element, left first (42 R180, last line). -/
def writeStereo (o : ByteOrder) (m : List Host.Cell) (outL outR : Nat) : List (F32 × F32) → List Host.Cell
  | [] => m
  | (l, r) :: ys => writeStereo o (memWrite o (memWrite o m outL l) outR r) (outL + 4) (outR + 4) ys

/-- The size of host memory in bytes, `2^HADDR_BITS` (20 R72, 00 R11). -/
def hostBytes : Nat := 2 ^ 64

/-- `MemCheck (base, n)`: alignment (20 R74), then range (20 R75). -/
def memCheck (base n : Nat) : Except Cause Unit :=
  if base % 4 ≠ 0 then .error .memory
  else if 0 < n ∧ hostBytes < base + 4 * n then .error .memory
  else .ok ()

/-- The byte ranges of two arrays intersect; a zero-length array overlaps nothing (20 R79). -/
def overlap (a n b m : Nat) : Bool := decide (0 < n ∧ 0 < m ∧ a < b + 4 * m ∧ b < a + 4 * n)

/-- An address is one of the bytes of the array of `n` elements at `base` (20 R75). -/
def inArray (base n a : Nat) : Bool := decide (base ≤ a ∧ a < base + 4 * n)

/-- The four array operands of PROCESS_STEREO and AUDIO_BLOCK and their element count (30 R109). -/
structure StereoArrays where
  inL : Nat
  inR : Nat
  outL : Nat
  outR : Nat
  n : Nat
  deriving DecidableEq, Repr

/-- The overlap rules of 20 R79 (a) hold. -/
def StereoArrays.disjoint (a : StereoArrays) : Bool :=
  !overlap a.outL a.n a.outR a.n && !overlap a.outL a.n a.inR a.n && !overlap a.outR a.n a.inL a.n &&
  (a.inL == a.outL || !overlap a.inL a.n a.outL a.n) && (a.inR == a.outR || !overlap a.inR a.n a.outR a.n)

/-- `StereoCheck` (42 R180): alignment and range of the arrays in ARG order, then overlap, then the count (60 R234). A
count below zero is checked as zero. -/
def stereoCheck (inL inR outL outR : Nat) (count : Int) : Except Cause StereoArrays := do
  let a : StereoArrays := { inL := inL, inR := inR, outL := outL, outR := outR, n := count.toNat }
  memCheck inL a.n
  memCheck inR a.n
  memCheck outL a.n
  memCheck outR a.n
  if !a.disjoint then .error .memory
  else if count < 0 then .error .precondition
  else .ok a

/-- The state after a command that took free values: the next command's are named apart. -/
def State.tick (s : State) : State := { s with free := s.free + 1 }

/-- `draw()` (00 R21): any f32 `u` with `-1.0 <= u <= 1.0`; +0.0 under NORAND (10 R38). -/
def draw (norand : Bool) (p : Site) : F32 :=
  if norand then 0#32
  else if ge32 (Config.freeDraw p) minusOne32 && ge32 one32 (Config.freeDraw p) then Config.freeDraw p
  else 0#32

/-- `wpReset`: any value in `[0, len)` (42 R188). -/
def freeCursor (len : Nat) (p : Site) : Nat := Config.freeCursor p % len

/-- `FaultEntry` (60 R238): STATUS.FAULT and CAUSE are set, ALLOC also ends the session (60 R232), the log grows, and
nothing else changes. -/
def State.faultEntry (s : State) (p : Port) (w : Word) (c : Cause) : State :=
  { s with
    fault := some c
    len := if c = .alloc then 0 else s.len
    faultLog := s.faultLog ++ [{ port := p, word := w, what := .fault c }] }

/-- The refusal of a legal P0 word in a dead session (60 R240): only the log grows. -/
def State.refuse (s : State) (w : Word) : State :=
  { s with faultLog := s.faultLog ++ [{ port := .p0, word := w, what := .refused }] }

/-- How a command's own tests and effect end: its next state, or the fault it raised, taken in the state it was issued
in, so that a fault is precise (60 R239). -/
def settle (i : Instr) (s : State) : Except Cause State → Host.Outcome State Fault Refusal
  | .ok t => .next t
  | .error c => .next (s.faultEntry s.active (encode i) c)

/-- P0 refuses the command because the session is dead (60 R240). -/
def State.refuses (s : State) (i : Instr) : Bool := s.faulted && s.active == .p0 && !i.servesDeadSession

/-- The order of tests every command shares (60 R237): the word and its port (1), the dead session (2), then the
command's own tests and effect (3 to 8). -/
def runCommand (i : Instr) (s : State) (body : Except Cause State) : Host.Outcome State Fault Refusal :=
  if !i.wf || !i.acceptedOn s.active then .next (s.faultEntry s.active (encode i) .illegal)
  else if s.refuses i then .next (s.refuse (encode i))
  else settle i s body

end Sys2Proof.Machine
end

