-- ==== Sys2Proof/Machine/Filter.lean ====
section
/-!
DEFINITION. The single-pole IIR filter and its commands (40 R130-R136).
-/

namespace Sys2Proof.Machine

/-- The four registers of a filter unit, all written. -/
structure FilterRegs where
  a : F32
  kind : FilterType
  yPrev : F32
  xPrev : F32
  deriving DecidableEq, Repr

/-- The registers of a unit, or UNINIT when one of the four is unwritten (10 R44, 40 R131). -/
def FilterUnit.regs (f : FilterUnit) : Except Cause FilterRegs := do
  let a ← written f.a
  let kind ← written f.kind
  let yPrev ← written f.yPrev
  let xPrev ← written f.xPrev
  .ok { a := a, kind := kind, yPrev := yPrev, xPrev := xPrev }

/-- A unit all of whose registers are written. -/
def FilterRegs.toUnit (r : FilterRegs) : FilterUnit :=
  { a := some r.a, kind := some r.kind, yPrev := some r.yPrev, xPrev := some r.xPrev }

/-- The filter unit a UNIT field selects: its value, for the legal values 0..7 (30 R106). -/
def filterIx (unit : BitVec 4) : Fin 8 := Fin.ofNat 8 unit.toNat

/-- Replace one filter unit. -/
def State.setFilter (s : State) (i : Fin 8) (f : FilterUnit) : State := { s with filters := s.filters.set i f }

/-- `y = (1-a)*x + a*y_prev` as the tree of 40 R131. -/
def lowPass (p : Site) (r : FilterRegs) (x : F32) : F32 :=
  add32 (3 :: p) (mul32 (1 :: p) (sub32 (0 :: p) one32 r.a) x) (mul32 (2 :: p) r.a r.yPrev)

/-- `y = a*(y_prev + x - x_prev)` as the tree of 40 R131. -/
def highPass (p : Site) (r : FilterRegs) (x : F32) : F32 :=
  mul32 (2 :: p) r.a (sub32 (1 :: p) (add32 (0 :: p) r.yPrev x) r.xPrev)

/-- The output of one filter step (40 R131). -/
def filterOutput (p : Site) (r : FilterRegs) (x : F32) : F32 :=
  match r.kind with
  | .lp => lowPass p r x
  | .hp => highPass p r x

/-- `FilterStep` on a unit whose registers are written (40 R131): the output and the registers after it. -/
def filterStep (p : Site) (r : FilterRegs) (x : F32) : F32 × FilterRegs :=
  (filterOutput p r x, { r with yPrev := filterOutput p r x, xPrev := x })

/-- One filter step per sample, in index order (42 R180 steps 3 and 7). -/
def filterRun (p : Site) (r : FilterRegs) : List F32 → List F32 × FilterRegs
  | [] => ([], r)
  | x :: xs =>
    let first := filterStep (xs.length :: p) r x
    let rest := filterRun p first.2 xs
    (first.1 :: rest.1, rest.2)

/-- 2π in binary64 (40 R130). -/
def twoPi : F64 := 0x401921FB54442D18#64

/-- The fraction bits `expNeg` works with. -/
def expFraction : Nat := 200

/-- The series of `exp (-t)` in fixed point: `term` is the magnitude of the term of degree `k`, `even` and `odd` the
sums of the terms so far by the parity of their degree. -/
def expSeries (t : Nat) : Nat → Nat → Nat → Nat → Nat → Nat
  | 0, _, _, even, odd => even - odd
  | fuel + 1, k, term, even, odd =>
    let next := term * t / 2 ^ expFraction / (k + 1)
    if k % 2 = 0 then expSeries t fuel (k + 1) next (even + term) odd
    else expSeries t fuel (k + 1) next even (odd + term)

/-- `EXP64 (-t)` for `0 <= t` below about 4 (40 R130): the series to 120 terms with 200 fraction bits, rounded once to
binary64; +0.0 for `t = +inf`. That this is the correctly rounded value is PRESUMED (log entry 7). -/
def expNeg (t : F64) : F64 :=
  let fixed := units fmt64 (magOf fmt64 t.toNat) * 2 ^ expFraction / 2 ^ fmt64.scale
  if isFinite64 t then
    BitVec.ofNat 64 (roundMag fmt64 (expSeries fixed 120 0 (2 ^ expFraction) 0 0 * 2 ^ fmt64.scale) (2 ^ expFraction))
  else 0#64

/-- The decided default of `COEF_FN` (40 R130). -/
def coefRounded (fs fc : F64) : F32 := cvt32 [] (expNeg (div64 [] (mul64 [] twoPi fc) fs))

/-- What R130 lets a model assume of a coefficient: a finite f32 in `(0.0, 1.0]`. -/
def admittedCoef (a : F32) : Bool := gt32 a 0#32 && ge32 one32 a

/-- `COEF_FN (fs, fc)` (40 R130): a function of the two operands alone, 1.0 when `fc = 0`, in `(0.0, 1.0]`, and
otherwise whatever the machine's choice makes it. -/
def coefFn (c : CoefChoice) (fs fc : F64) : F32 :=
  let raw : F32 := match c with
    | .rounded => coefRounded fs fc
    | .free => Config.freeCoef fs fc
  if magOf fmt64 fc.toNat = 0 then one32 else if admittedCoef raw then raw else one32

/-- The tests of FLT_SETCOEF on its operands (40 R132): `fs` finite and positive, `fc` finite and not negative, and
`fc < fs/2`. -/
def coefDomain (fs fc : F64) : Bool :=
  isFinite64 fs && gt64 fs 0#64 && isFinite64 fc && !lt64 fc 0#64 && lt64 fc (div64 [] fs two64)

/-- FLT_SETCOEF's own tests and effect (40 R132). -/
def fltSetcoef (unit : BitVec 4) (mode : FilterType) (s : State) : Except Cause State := do
  let fs ← s.argF64 0
  let fc ← s.argF64 1
  if !coefDomain fs fc then .error .precondition
  else .ok (s.setFilter (filterIx unit)
    { s.filters[filterIx unit] with a := some (coefFn s.params.coef fs fc), kind := some mode })

/-- FLT_SETCOEF (40 R132). -/
def execFltSetcoef (unit : BitVec 4) (mode : FilterType) (s : State) : Host.Outcome State Fault Refusal :=
  runCommand (.fltSetcoef unit mode) s (fltSetcoef unit mode s)

/-- FLT_PROCESS's own tests and effect (40 R133). -/
def fltProcess (unit : BitVec 4) (s : State) : Except Cause State := do
  let x ← s.argF32 0
  let r ← s.filters[filterIx unit].regs
  let out := filterStep [s.free] r x
  .ok ((s.setFilter (filterIx unit) out.2.toUnit).setRes0 (resF32 out.1)).tick

/-- FLT_PROCESS (40 R133). -/
def execFltProcess (unit : BitVec 4) (s : State) : Host.Outcome State Fault Refusal :=
  runCommand (.fltProcess unit) s (fltProcess unit s)

/-- A filter unit with its history cleared; A and TYPE unchanged (40 R134). -/
def FilterUnit.cleared (f : FilterUnit) : FilterUnit := { f with yPrev := some 0#32, xPrev := some 0#32 }

/-- FLT_RESET (40 R134). -/
def execFltReset (unit : BitVec 4) (s : State) : Host.Outcome State Fault Refusal :=
  runCommand (.fltReset unit) s (.ok (s.setFilter (filterIx unit) s.filters[filterIx unit].cleared))

end Sys2Proof.Machine
end

