-- ==== Sys2Proof/Machine/Resampler.lean ====
section
/-!
DEFINITION. The linear resampler and its commands (41 R150-R157).
-/

namespace Sys2Proof.Machine

/-- The two registers of a resampler unit, both written. -/
structure ResamplerRegs where
  phase : F64
  last : F32
  deriving DecidableEq, Repr

/-- The registers of a unit, or UNINIT when one is unwritten (10 R46, 41 R153). -/
def ResamplerUnit.regs (r : ResamplerUnit) : Except Cause ResamplerRegs := do
  let phase ← written r.phase
  let last ← written r.last
  .ok { phase := phase, last := last }

/-- A unit both of whose registers are written. -/
def ResamplerRegs.toUnit (r : ResamplerRegs) : ResamplerUnit := { phase := some r.phase, last := some r.last }

/-- A resampler unit after a reset: PHASE and LAST are +0.0 (41 R155). -/
def ResamplerUnit.cleared : ResamplerUnit := { phase := some 0#64, last := some 0#32 }

/-- The resampler unit a UNIT field selects: its value, for the legal values 0..3 (30 R107). -/
def resamplerIx (unit : BitVec 4) : Fin 4 := Fin.ofNat 4 unit.toNat

/-- Replace one resampler unit. -/
def State.setResampler (s : State) (i : Fin 4) (r : ResamplerUnit) : State :=
  { s with resamplers := s.resamplers.set i r }

/-- `LERP (last, cur, ph)` as the tree of 41 R150. -/
def lerp (p : Site) (last cur : F32) (ph : F64) : F32 :=
  cvt32 (5 :: p) (add64 (4 :: p) (cvt64 (0 :: p) last) (mul64 (3 :: p) (cvt64 (2 :: p) (sub32 (1 :: p) cur last)) ph))

/-- What the emit loop of Downsample leaves: the samples it emitted, PHASE, and how many more the cap allows. -/
structure Emitted where
  out : List F32
  phase : F64
  room : Nat
  deriving DecidableEq, Repr

/-- The emit loop of Downsample for one input (41 R151): while PHASE is below 1.0 and the cap leaves room, emit and
advance PHASE by `ratio`. -/
def emit (p : Site) (ratio : F64) (last cur : F32) : Nat → F64 → Emitted
  | 0, ph => { out := [], phase := ph, room := 0 }
  | room + 1, ph =>
    if lt64 ph one64 then
      let rest := emit p ratio last cur room (add64 (0 :: room :: p) ph ratio)
      { rest with out := lerp (1 :: room :: p) last cur ph :: rest.out }
    else { out := [], phase := ph, room := room + 1 }

/-- `Downsample` (41 R151) with `room = maxOut - produced`: the samples produced and the registers after it. When the
emit loop ends with PHASE still below 1.0, the cap has stopped it. Under `breakOuter` the input that meets the cap is
consumed and PHASE falls by 1.0 from below 1.0, as R151's pseudocode and table say, so that PHASE can become negative
although 41 R156 (c) says it never does: DEDUCED, the model follows R151 (log entry 22). -/
def downsample (stop : StopRule) (p : Site) (ratio : F64) : Nat → ResamplerRegs → List F32 → List F32 × ResamplerRegs
  | _, r, [] => ([], r)
  | room, r, cur :: xs =>
    if stop = .breakOuter ∧ room = 0 then ([], r)
    else
      let e := emit (xs.length :: p) ratio r.last cur room r.phase
      if stop = .returnInner ∧ lt64 e.phase one64 then (e.out, { r with phase := e.phase })
      else
        let rest := downsample stop p ratio e.room
          { phase := sub64 (2 :: xs.length :: p) e.phase one64, last := cur } xs
        (e.out ++ rest.1, rest.2)

/-- The consumption loop of Upsample (41 R152): while PHASE is at least 1.0 and input remains, the next input becomes
LAST and PHASE falls by 1.0. -/
def consume (p : Site) (r : ResamplerRegs) : List F32 → List F32 × ResamplerRegs
  | [] => ([], r)
  | x :: xs =>
    if ge64 r.phase one64 then consume p { phase := sub64 (xs.length :: p) r.phase one64, last := x } xs
    else (x :: xs, r)

/-- One output of Upsample: interpolated towards the next pending input, or LAST held flat (41 R152). -/
def upsampleOutput (p : Site) (r : ResamplerRegs) : List F32 → F32
  | x :: _ => lerp p r.last x r.phase
  | [] => r.last

/-- `Upsample` (41 R152): exactly the requested number of outputs, and the registers after them. -/
def upsample (p : Site) (ratio : F64) : Nat → ResamplerRegs → List F32 → List F32 × ResamplerRegs
  | 0, r, _ => ([], r)
  | k + 1, r, xs =>
    let y := upsampleOutput (0 :: k :: p) r xs
    let c := consume (2 :: k :: p) { r with phase := add64 (1 :: k :: p) r.phase ratio } xs
    let rest := upsample p ratio k c.2 c.1
    (y :: rest.1, rest.2)

/-- The operands of RS_DOWNSAMPLE and RS_UPSAMPLE after every test on them (41 R153, R154). -/
structure ResampleArgs where
  inBase : Nat
  n : Nat
  outBase : Nat
  count : Nat
  ratio : F64
  deriving DecidableEq, Repr

/-- A rate or a ratio is finite and positive (41 R153). -/
def positive64 (r : F64) : Bool := isFinite64 r && gt64 r 0#64

/-- The operands of a resampler command, tested in the order of 41 R153: the ARGs, the two arrays, their overlap, the
counts, the rates, the ratio. -/
def State.resampleArgs (s : State) : Except Cause ResampleArgs := do
  let inBase ← s.argAddr 0
  let n ← s.argI32 1
  let outBase ← s.argAddr 2
  let count ← s.argI32 3
  let inRate ← s.argF64 4
  let outRate ← s.argF64 5
  memCheck inBase n.toNat
  memCheck outBase count.toNat
  if overlap inBase n.toNat outBase count.toNat then .error .memory
  else if n < 0 ∨ count < 0 then .error .precondition
  else if !(positive64 inRate && positive64 outRate) then .error .precondition
  else if !positive64 (div64 [] inRate outRate) then .error .precondition
  else .ok { inBase := inBase, n := n.toNat, outBase := outBase, count := count.toNat,
             ratio := div64 [] inRate outRate }

/-- What a resampler command does with the outputs it made: stores them, counts them in RES0, keeps the unit. -/
def State.finishResample (s : State) (i : Fin 4) (outBase : Nat) (ys : List F32) (r : ResamplerRegs) : State :=
  (({ s with mem := writeArray s.params.byteOrder s.mem outBase ys }.setResampler i r.toUnit).setRes0
    (resI32 ys.length)).tick

/-- RS_DOWNSAMPLE's own tests and effect (41 R153). -/
def rsDownsample (unit : BitVec 4) (s : State) : Except Cause State := do
  let a ← s.resampleArgs
  let r ← s.resamplers[resamplerIx unit].regs
  let x := readArray s.params.byteOrder s.mem a.inBase a.n
  let out := downsample s.params.stop [s.free] a.ratio a.count r x
  .ok (s.finishResample (resamplerIx unit) a.outBase out.1 out.2)

/-- RS_DOWNSAMPLE (41 R153). -/
def execRsDownsample (unit : BitVec 4) (s : State) : Host.Outcome State Fault Refusal :=
  runCommand (.rsDownsample unit) s (rsDownsample unit s)

/-- RS_UPSAMPLE's own tests and effect (41 R154). -/
def rsUpsample (unit : BitVec 4) (s : State) : Except Cause State := do
  let a ← s.resampleArgs
  let r ← s.resamplers[resamplerIx unit].regs
  let x := readArray s.params.byteOrder s.mem a.inBase a.n
  let out := upsample [s.free] a.ratio a.count r x
  .ok (s.finishResample (resamplerIx unit) a.outBase out.1 out.2)

/-- RS_UPSAMPLE (41 R154). -/
def execRsUpsample (unit : BitVec 4) (s : State) : Host.Outcome State Fault Refusal :=
  runCommand (.rsUpsample unit) s (rsUpsample unit s)

/-- RS_RESET (41 R155). -/
def execRsReset (unit : BitVec 4) (s : State) : Host.Outcome State Fault Refusal :=
  runCommand (.rsReset unit) s (.ok (s.setResampler (resamplerIx unit) ResamplerUnit.cleared))

end Sys2Proof.Machine
end

