-- ==== Sys2Proof/Machine/Delay.lean ====
section
/-!
DEFINITION. The circular delay buffer with crosstalk and quantization, and its commands PREPARE, RESET, PROCESS_STEREO
and DLY_STEP (42 R170-R190).
-/

namespace Sys2Proof.Machine

/-- The six draws of one delay step, by the names 42 R170 gives them. -/
structure Draws where
  dL1 : F32
  dL2 : F32
  nL : F32
  dR1 : F32
  dR2 : F32
  nR : F32
  deriving DecidableEq, Repr

/-- The draws of the delay step named by a site (00 R21, 10 R38, 42 R184). -/
def drawsAt (norand : Bool) (p : Site) : Draws :=
  { dL1 := draw norand (0 :: p), dL2 := draw norand (1 :: p), nL := draw norand (2 :: p)
    dR1 := draw norand (3 :: p), dR2 := draw norand (4 :: p), nR := draw norand (5 :: p) }

/-- What the delay step reads and writes (42 R170): LEN, the cursor, the two buffers and filter units 4 to 7. -/
structure DelayLine where
  len : Nat
  writePos : Nat
  bufL : List (Nat × F32)
  bufR : List (Nat × F32)
  hpL : FilterRegs
  hpR : FilterRegs
  lpL : FilterRegs
  lpR : FilterRegs
  deriving DecidableEq, Repr

/-- The read position `(WRITE_POS - d) mod LEN`, exact and normalized to non-negative (42 R171). -/
def readPos (writePos : Nat) (d : Int) (len : Nat) : Nat := (((writePos : Int) - d) % (len : Int)).toNat

/-- One side of the crosstalk: `own + XTALK_K * other`, both from pre-crosstalk values (42 R173). -/
def crosstalk (p : Site) (own other : F32) : F32 := add32 (1 :: p) own (mul32 (0 :: p) xtalkK other)

/-- `Quantize (s, u1, u2)` (42 R175). -/
def quantize (p : Site) (s u1 u2 : F32) : F32 :=
  let dith := mul32 (1 :: p) (add32 (0 :: p) u1 u2) ditherScale
  let t := add32 (4 :: p) (mul32 (3 :: p) (add32 (2 :: p) s dith) qsteps) half32
  div32 (6 :: p) (floor32 (5 :: p) t) qsteps

/-- Quantization and the noise floor (42 R175, R176). -/
def quantizeNoise (p : Site) (s u1 u2 n : F32) : F32 :=
  add32 (8 :: p) (quantize p s u1 u2) (mul32 (7 :: p) n noiseScale)

/-- What one channel's signal becomes after crosstalk: high-pass, low-pass, quantize, noise (42 R174-R176), with the
two filters' registers after it. -/
def channelStep (p : Site) (hp lp : FilterRegs) (x u1 u2 n : F32) : F32 × FilterRegs × FilterRegs :=
  let h := filterStep (0 :: p) hp x
  let l := filterStep (1 :: p) lp h.1
  (quantizeNoise (2 :: p) l.1 u1 u2 n, h.2, l.2)

/-- `DelayStep (inL, inR, d)` (42 R170): write, read, crosstalk, filter, quantize, add noise, advance the cursor. -/
def delayStep (p : Site) (dr : Draws) (d : Int) (l : DelayLine) (inL inR : F32) : (F32 × F32) × DelayLine :=
  let bufL := cellsSet l.bufL l.writePos inL
  let bufR := cellsSet l.bufR l.writePos inR
  let rp := readPos l.writePos d l.len
  let dlyL := cellsGet bufL rp
  let dlyR := cellsGet bufR rp
  let left := channelStep (0 :: p) l.hpL l.lpL (crosstalk (1 :: p) dlyL dlyR) dr.dL1 dr.dL2 dr.nL
  let right := channelStep (2 :: p) l.hpR l.lpR (crosstalk (3 :: p) dlyR dlyL) dr.dR1 dr.dR2 dr.nR
  ((left.1, right.1),
   { len := l.len, writePos := (l.writePos + 1) % l.len, bufL := bufL, bufR := bufR
     hpL := left.2.1, lpL := left.2.2, hpR := right.2.1, lpR := right.2.2 })

/-- The step loop of a block: one delay step per internal sample, in increasing order, each with its own six draws
(42 R184). `k` is the index of the first sample. -/
def delayRun (p : Site) (draws : Nat → Draws) (d : Int) : Nat → DelayLine → List (F32 × F32) → List (F32 × F32) × DelayLine
  | _, l, [] => ([], l)
  | k, l, (x, y) :: rest =>
    let first := delayStep (k :: p) (draws k) d l x y
    let others := delayRun p draws d (k + 1) first.2 rest
    (first.1 :: others.1, others.2)

/-- The registers the delay step uses, or UNINIT when one is unwritten: DLY_STEP's state tests (42 R178). -/
def State.delayLine (s : State) : Except Cause DelayLine := do
  let hpL ← s.filters[4].regs
  let hpR ← s.filters[5].regs
  let lpL ← s.filters[6].regs
  let lpR ← s.filters[7].regs
  let wp ← written s.writePos
  .ok { len := s.len, writePos := wp, bufL := s.bufL, bufR := s.bufR, hpL := hpL, hpR := hpR, lpL := lpL, lpR := lpR }

/-- Put back what the delay step writes. -/
def State.setDelayLine (s : State) (l : DelayLine) : State :=
  { s with
    writePos := some l.writePos
    bufL := l.bufL
    bufR := l.bufR
    filters := (((s.filters.set 4 l.hpL.toUnit).set 5 l.hpR.toUnit).set 6 l.lpL.toUnit).set 7 l.lpR.toUnit }

/-- DLY_STEP's own tests and effect (42 R178). -/
def dlyStep (s : State) : Except Cause State := do
  let inL ← s.argF32 0
  let inR ← s.argF32 1
  let d ← s.argI32 2
  if s.len = 0 then .error .uninit
  else
    let line ← s.delayLine
    let out := delayStep [s.free] (drawsAt s.norand [s.free]) d line inL inR
    .ok (((s.setDelayLine out.2).setRes0 (resF32 out.1.1)).setRes1 (resF32 out.1.2)).tick

/-- DLY_STEP (42 R178). -/
def execDlyStep (s : State) : Host.Outcome State Fault Refusal := runCommand .dlyStep s (dlyStep s)

/-- The coefficient and type PREPARE gives filter unit `i`, its history cleared (42 R179, 10 R43). -/
def preparedFilter (c : CoefChoice) (fs : F64) (i : Fin 8) : FilterUnit :=
  { a := some (if i.val < 4 then coefFn c fs aaCutoff
               else if i.val < 6 then coefFn c internalRate hpCutoff
               else coefFn c internalRate lpCutoff)
    kind := some (if i.val = 4 ∨ i.val = 5 then .hp else .lp)
    yPrev := some 0#32
    xPrev := some 0#32 }

/-- The length of the delay buffers, `floor (maxDelayMs * 24000 / 1000)` (42 R179). -/
def bufferLength (maxDelayMs : Int) : Nat := maxDelayMs.toNat * 24000 / 1000

/-- The state after a PREPARE that completes (42 R179). -/
def State.prepareWith (s : State) (fs : F64) (len : Nat) : State :=
  { s with
    len := len
    hostRate := some fs
    bufL := cellsClearBelow s.bufL len
    bufR := cellsClearBelow s.bufR len
    writePos := some 0
    filters := Vector.ofFn (preparedFilter s.params.coef fs)
    resamplers := Vector.replicate 4 ResamplerUnit.cleared
    fault := none }

/-- PREPARE's own tests and effect (42 R179). -/
def prepare (s : State) : Except Cause State := do
  let fs ← s.argF64 0
  let m ← s.argI32 1
  if !(isFinite64 fs && gt64 fs minHostRate) then .error .precondition
  else if m < 1 then .error .precondition
  else if s.params.delayRamWords < bufferLength m then .error .alloc
  else .ok (s.prepareWith fs (bufferLength m))

/-- PREPARE (42 R179). -/
def execPrepare (s : State) : Host.Outcome State Fault Refusal := runCommand .prepare s (prepare s)

/-- The state after RESET (42 R187): buffers and histories cleared; while prepared, the cursor is `wpReset` (42 R188). -/
def State.clearHistory (s : State) : State :=
  { s with
    bufL := cellsClearBelow s.bufL s.len
    bufR := cellsClearBelow s.bufR s.len
    filters := s.filters.map FilterUnit.cleared
    resamplers := Vector.replicate 4 ResamplerUnit.cleared
    writePos := if 0 < s.len then some (freeCursor s.len [s.free]) else s.writePos
    free := s.free + 1 }

/-- RESET (42 R187). -/
def execReset (s : State) : Host.Outcome State Fault Refusal := runCommand .reset s (.ok s.clearHistory)

/-- Everything PROCESS_STEREO keeps from block to block (42 R180). -/
structure Engine where
  hostRate : F64
  aaL : FilterRegs
  aaR : FilterRegs
  recL : FilterRegs
  recR : FilterRegs
  downL : ResamplerRegs
  downR : ResamplerRegs
  upL : ResamplerRegs
  upR : ResamplerRegs
  line : DelayLine
  deriving DecidableEq, Repr

/-- `clamp (v, lo, hi)` (00 R16). -/
def clampInt (v lo hi : Int) : Int := min (max v lo) hi

/-- The delay in internal samples, `clamp (24 * delayMs, 1, LEN - 1)` (42 R182). -/
def delaySamples (ms : Int) (len : Nat) : Int := clampInt (24 * ms) 1 ((len : Int) - 1)

/-- `maxOut`, the internal sample count's cap (42 R183). -/
def internalCap (n : Nat) (hostRate : F64) (scratchCap : Nat) : Nat :=
  min (floorNat64 (div64 [] (mul64 [] (i2f64 n) internalRate) hostRate) + 1) scratchCap

/-- The signal path of one block (42 R180 steps 3 to 7): the host-rate outputs and the engine after it. -/
def engineBlock (stop : StopRule) (scratchCap : Nat) (p : Site) (draws : Nat → Draws) (ms : Int)
    (e : Engine) (xL xR : List F32) : (List F32 × List F32) × Engine :=
  let n := xL.length
  let aL := filterRun (0 :: p) e.aaL xL
  let aR := filterRun (1 :: p) e.aaR xR
  let cap := internalCap n e.hostRate scratchCap
  let rd := div64 (9 :: p) e.hostRate internalRate
  let sL := downsample stop (2 :: p) rd cap e.downL aL.1
  let sR := downsample stop (3 :: p) rd cap e.downR aR.1
  let o := delayRun (4 :: p) draws (delaySamples ms e.line.len) 0 e.line (sL.1.zip sR.1)
  let ru := div64 (10 :: p) internalRate e.hostRate
  let uL := upsample (5 :: p) ru n e.upL (o.1.map Prod.fst)
  let uR := upsample (6 :: p) ru n e.upR (o.1.map Prod.snd)
  let yL := filterRun (7 :: p) e.recL uL.1
  let yR := filterRun (8 :: p) e.recR uR.1
  ((yL.1, yR.1),
   { hostRate := e.hostRate, aaL := aL.2, aaR := aR.2, recL := yL.2, recR := yR.2
     downL := sL.2, downR := sR.2, upL := uL.2, upR := uR.2, line := o.2 })

/-- The registers PROCESS_STEREO uses, or UNINIT when one is unwritten, which cannot be once LEN > 0 (42 R180). -/
def State.engine (s : State) : Except Cause Engine := do
  let hostRate ← written s.hostRate
  let aaL ← s.filters[0].regs
  let aaR ← s.filters[1].regs
  let recL ← s.filters[2].regs
  let recR ← s.filters[3].regs
  let downL ← s.resamplers[0].regs
  let downR ← s.resamplers[1].regs
  let upL ← s.resamplers[2].regs
  let upR ← s.resamplers[3].regs
  let line ← s.delayLine
  .ok { hostRate := hostRate, aaL := aaL, aaR := aaR, recL := recL, recR := recR, downL := downL, downR := downR
        upL := upL, upR := upR, line := line }

/-- Put back what a block writes in the CORE. -/
def State.setEngine (s : State) (e : Engine) : State :=
  { (s.setDelayLine e.line) with
    filters := ((((s.setDelayLine e.line).filters.set 0 e.aaL.toUnit).set 1 e.aaR.toUnit).set 2
      e.recL.toUnit).set 3 e.recR.toUnit
    resamplers := (((s.resamplers.set 0 e.downL.toUnit).set 1 e.downR.toUnit).set 2 e.upL.toUnit).set 3 e.upR.toUnit }

/-- The outputs and the engine after a block whose inputs are in host memory: every input is read first (20 R80). -/
def State.blockOutput (s : State) (a : StereoArrays) (ms : Int) (e : Engine) : (List F32 × List F32) × Engine :=
  engineBlock s.params.stop s.params.scratchCap [s.free] (fun k => drawsAt s.norand [k, s.free]) ms e
    (readArray s.params.byteOrder s.mem a.inL a.n) (readArray s.params.byteOrder s.mem a.inR a.n)

/-- The state after a block: the engine put back and the outputs stored (42 R180, R185). -/
def State.finishBlock (s : State) (a : StereoArrays) (out : (List F32 × List F32) × Engine) : State :=
  { (s.setEngine out.2) with
    mem := writeStereo s.params.byteOrder s.mem a.outL a.outR (out.1.1.zip out.1.2)
    free := s.free + 1 }

/-- `StereoBlock` (42 R180), shared by PROCESS_STEREO and AUDIO_BLOCK. -/
def State.stereoBlock (s : State) (a : StereoArrays) (ms : Int) : Except Cause State := do
  let e ← s.engine
  .ok (s.finishBlock a (s.blockOutput a ms e))

/-- The array operands of PROCESS_STEREO and AUDIO_BLOCK, ARG0..ARG4, after `StereoCheck` (42 R180). -/
def State.stereoArgs (s : State) : Except Cause StereoArrays := do
  let inL ← s.argAddr 0
  let inR ← s.argAddr 1
  let outL ← s.argAddr 2
  let outR ← s.argAddr 3
  let count ← s.argI32 4
  stereoCheck inL inR outL outR count

/-- PROCESS_STEREO's own tests and effect (42 R180): the unprepared guard (42 R181), the ARGs, `StereoCheck`, then the
block. -/
def processStereo (s : State) : Except Cause State :=
  if s.len = 0 then .ok s
  else do
    let ms ← s.argI32 5
    let a ← s.stereoArgs
    s.stereoBlock a ms

/-- PROCESS_STEREO (42 R180). -/
def execProcessStereo (s : State) : Host.Outcome State Fault Refusal := runCommand .processStereo s (processStereo s)

end Sys2Proof.Machine
end

