-- ==== Sys2Proof/Machine/Peak.lean ====
section
/-!
DEFINITION. The peak meter with exponential hold and its commands (43 R200-R204).
-/

namespace Sys2Proof.Machine

/-- The peak channel a UNIT field selects: its value, for the legal values 0..3 (30 R108). -/
def peakIx (unit : BitVec 4) : Fin 4 := Fin.ofNat 4 unit.toNat

/-- The value a peak register takes on one sample (43 R200): instant attack, else decay. -/
def peakNext (p : Site) (peak sample : F32) : F32 :=
  if gt32 (abs32 sample) peak then abs32 sample else mul32 p peak peakDecay

/-- `PeakUpdate (c, s)` (43 R200). -/
def State.peakUpdate (s : State) (c : Fin 4) (sample : F32) : State :=
  { s with peaks := s.peaks.set c (peakNext [s.free] s.peaks[c] sample), free := s.free + 1 }

/-- PEAK_UPDATE's own tests and effect (43 R201). -/
def peakUpdate (unit : BitVec 4) (s : State) : Except Cause State := do
  let x ← s.argF32 0
  .ok (s.peakUpdate (peakIx unit) x)

/-- PEAK_UPDATE (43 R201). -/
def execPeakUpdate (unit : BitVec 4) (s : State) : Host.Outcome State Fault Refusal :=
  runCommand (.peakUpdate unit) s (peakUpdate unit s)

/-- PEAK_READ (43 R202). -/
def execPeakRead (unit : BitVec 4) (s : State) : Host.Outcome State Fault Refusal :=
  runCommand (.peakRead unit) s (.ok (s.setRes0 (resF32 s.peaks[peakIx unit])))

end Sys2Proof.Machine
end

