-- ==== Sys2Proof/Machine/Control.lean ====
section
/-!
DEFINITION. The audio-callback boundary AUDIO_BLOCK and the control registers' commands (44 R210-R217).

AUDIO_BLOCK is the one command that is not atomic (00 R22): carrying it out once does its tests and its first sub-step
S0, and carrying it out again, while its block is in progress, does the next sub-step (44 R211).
-/

namespace Sys2Proof.Machine

/-- `DELAY_TABLE_MS[0..5]` (44 R210). -/
def delayTableMs (i : Fin 6) : Int :=
  match i with
  | 0 => 20
  | 1 => 40
  | 2 => 80
  | 3 => 120
  | 4 => 220
  | 5 => 400

/-- The arrays of a block in progress. -/
def Block.arrays (b : Block) : StereoArrays :=
  { inL := b.inL, inR := b.inR, outL := b.outL, outR := b.outR, n := b.n }

/-- The sub-step that follows metering sample `i` of the input (44 R211). -/
def stageAfterIn (n i : Nat) : Side → BlockStage
  | .left => .meterIn i .right
  | .right => if i + 1 < n then .meterIn (i + 1) .left else .process

/-- The sub-step that follows metering sample `i` of the output; none when the block is done (44 R211). -/
def stageAfterOut (n i : Nat) : Side → Option BlockStage
  | .left => some (.meterOut i .right)
  | .right => if i + 1 < n then some (.meterOut (i + 1) .left) else none

/-- The peak channel of a side of the input (43 R204). -/
def inputChannel : Side → Fin 4
  | .left => 0
  | .right => 1

/-- The peak channel of a side of the output (43 R204). -/
def outputChannel : Side → Fin 4
  | .left => 2
  | .right => 3

/-- The base of the input array of a side. -/
def Block.inBase (b : Block) : Side → Nat
  | .left => b.inL
  | .right => b.inR

/-- The base of the output array of a side. -/
def Block.outBase (b : Block) : Side → Nat
  | .left => b.outL
  | .right => b.outR

/-- The sub-step after the block itself, S2: the first output meter, or none when N = 0 (44 R211). -/
def stageAfterProcess (n : Nat) : Option BlockStage := if 0 < n then some (.meterOut 0 .left) else none

/-- Keep the block in progress at its next sub-step, or end it. -/
def State.advanceBlock (s : State) (b : Block) (next : Option BlockStage) : State :=
  { s with block := next.map fun st => { b with stage := st } }

/-- Sub-step S2: the block itself, or nothing while unprepared (44 R211, 42 R181). -/
def State.processBlock (s : State) (b : Block) : Except Cause State :=
  if 0 < s.len then s.stereoBlock b.arrays (delayTableMs b.idx) else .ok s

/-- One sub-step of a block in progress (44 R211). S2 raises UNINIT only where a register is unwritten while LEN > 0,
which no run reaches; the block then ends (log entry 14). -/
def audioSubStep (b : Block) (s : State) : State :=
  match b.stage with
  | .meterIn i side =>
    (s.peakUpdate (inputChannel side) (memRead s.params.byteOrder s.mem (b.inBase side + 4 * i))).advanceBlock b
      (some (stageAfterIn b.n i side))
  | .process =>
    match s.processBlock b with
    | .ok t => t.advanceBlock b (stageAfterProcess b.n)
    | .error c => (s.faultEntry s.active (encode .audioBlock) c).advanceBlock b none
  | .meterOut i side =>
    (s.peakUpdate (outputChannel side) (memRead s.params.byteOrder s.mem (b.outBase side + 4 * i))).advanceBlock b
      (stageAfterOut b.n i side)

/-- The first sub-step after S0: the first input meter, or S2 when N = 0 (44 R211). -/
def firstStage (n : Nat) : BlockStage := if 0 < n then .meterIn 0 .left else .process

/-- AUDIO_BLOCK's tests and sub-step S0, the snapshot of DELAY_INDEX (44 R211, 20 R85). -/
def audioStart (s : State) : Except Cause State := do
  let a ← s.stereoArgs
  let idx ← written s.delayIndex
  .ok { s with
    block := some { inL := a.inL, inR := a.inR, outL := a.outL, outR := a.outR, n := a.n, idx := idx
                    stage := firstStage a.n } }

/-- AUDIO_BLOCK (44 R211): its start, or on P0 the next sub-step of the block in progress. A block once started is
carried through whatever STATUS says meanwhile (60 R239). -/
def execAudioBlock (s : State) : Host.Outcome State Fault Refusal :=
  match s.active, s.block with
  | .p0, some b => .next (audioSubStep b s)
  | .p0, none => runCommand .audioBlock s (audioStart s)
  | .p1, _ => runCommand .audioBlock s (audioStart s)

/-- The delay index an operand names, for the values 0..5 (44 R212). -/
def delayIndexOf (v : Int) : Option (Fin 6) :=
  if 0 ≤ v ∧ v ≤ 5 then some (Fin.ofNat 6 v.toNat) else none

/-- DIDX_WRITE's own tests and effect (44 R212). -/
def didxWrite (s : State) : Except Cause State := do
  let v ← s.argI32 0
  match delayIndexOf v with
  | none => .error .precondition
  | some i => .ok { s with delayIndex := some i }

/-- DIDX_WRITE (44 R212). -/
def execDidxWrite (s : State) : Host.Outcome State Fault Refusal := runCommand .didxWrite s (didxWrite s)

/-- DIDX_READ's own test and effect (44 R213). -/
def didxRead (s : State) : Except Cause State := do
  let i ← written s.delayIndex
  .ok (s.setRes0 (resI32 (i.val : Int)))

/-- DIDX_READ (44 R213). -/
def execDidxRead (s : State) : Host.Outcome State Fault Refusal := runCommand .didxRead s (didxRead s)

/-- STATUS_READ (44 R214). -/
def execStatusRead (s : State) : Host.Outcome State Fault Refusal :=
  runCommand .statusRead s (.ok (s.setRes0 (s.statusWord.setWidth 64)))

/-- TESTCTL_WRITE's own tests and effect (44 R215): the value is ARG0[31:0], and bits 31:1 must be 0. -/
def testctlWrite (s : State) : Except Cause State := do
  let v ← s.argF32 0
  if v.extractLsb' 1 31 ≠ 0#31 then .error .precondition
  else .ok { s with testctl := v }

/-- TESTCTL_WRITE (44 R215). -/
def execTestctlWrite (s : State) : Host.Outcome State Fault Refusal := runCommand .testctlWrite s (testctlWrite s)

end Sys2Proof.Machine
end

