-- ==== Sys2Proof/Machine/Dispatch.lean ====
section
/-! DEFINITION. `exec`: the meaning of each command, one arm per constructor of `Instr`. -/

namespace Sys2Proof.Machine

def exec (i : Instr) (s : State) : Host.Outcome State Fault Refusal :=
  match i with
  | .prepare => Sys2Proof.Machine.execPrepare s
  | .reset => Sys2Proof.Machine.execReset s
  | .processStereo => Sys2Proof.Machine.execProcessStereo s
  | .audioBlock => Sys2Proof.Machine.execAudioBlock s
  | .fltSetcoef u m => Sys2Proof.Machine.execFltSetcoef u m s
  | .fltProcess u => Sys2Proof.Machine.execFltProcess u s
  | .fltReset u => Sys2Proof.Machine.execFltReset u s
  | .rsDownsample u => Sys2Proof.Machine.execRsDownsample u s
  | .rsUpsample u => Sys2Proof.Machine.execRsUpsample u s
  | .rsReset u => Sys2Proof.Machine.execRsReset u s
  | .dlyStep => Sys2Proof.Machine.execDlyStep s
  | .peakUpdate u => Sys2Proof.Machine.execPeakUpdate u s
  | .peakRead u => Sys2Proof.Machine.execPeakRead u s
  | .didxWrite => Sys2Proof.Machine.execDidxWrite s
  | .didxRead => Sys2Proof.Machine.execDidxRead s
  | .statusRead => Sys2Proof.Machine.execStatusRead s
  | .testctlWrite => Sys2Proof.Machine.execTestctlWrite s

end Sys2Proof.Machine
end

