-- ==== Sys2Proof/Machine/Port.lean ====
section
/-!
DEFINITION. How commands come to run: the ports, the host's acts and the schedule (10 R31, 20 R83-R87, 70 R266). There
is no program counter and nothing is fetched from memory (10 R33): a command is the word the host wrote to a port's CMD.
-/

namespace Sys2Proof.Machine

/-- A port carries out a command from the host's write of CMD until the command completes (70 R266). -/
def State.busy (s : State) (p : Port) : Bool := (s.port p).cmd.isSome

/-- After a step of a port, its command is done, unless it is an AUDIO_BLOCK that still has sub-steps (44 R211). -/
def State.retire (s : State) (p : Port) (i : Instr) : State :=
  if i = .audioBlock ∧ p = .p0 ∧ s.block.isSome then s else s.setPort p { s.port p with cmd := none }

/-- Drop the command of a port. -/
def State.dropCommand (s : State) (p : Port) : State := s.setPort p { s.port p with cmd := none }

/-- One atomic step of a port (20 R84): decode the word in CMD (30 R114); an illegal one takes ILLEGAL (60 R233), any
other is carried out. A port with no command does nothing. -/
def portStep (p : Port) (s : State) : Host.Outcome State Fault Refusal :=
  match (s.port p).cmd with
  | none => .next s
  | some w =>
    match decodeOn p w with
    | .error _ => .next ((s.faultEntry p w .illegal).dropCommand p)
    | .ok i =>
      match exec i { s with active := p } with
      | .next t => .next (t.retire p i)
      | .fault r => .fault r
      | .refused r => .refused r

/-- The input arrays and the output arrays of PROCESS_STEREO and AUDIO_BLOCK, each a base and an element count. -/
def StereoArrays.ranges (a : StereoArrays) : List (Nat × Nat) × List (Nat × Nat) :=
  ([(a.inL, a.n), (a.inR, a.n)], [(a.outL, a.n), (a.outR, a.n)])

/-- The input array and the output array of a resampler command. -/
def ResampleArgs.ranges (a : ResampleArgs) : List (Nat × Nat) × List (Nat × Nat) :=
  ([(a.inBase, a.n)], [(a.outBase, a.count)])

/-- The input and output arrays a command runs on (20 R87, 30 R109), in the state with the issuing port active. None where
it is refused (60 R240), while PROCESS_STEREO finds LEN = 0 and reads no ARG (42 R181), and where a test on its operands
fails, an unwritten ARG among them: it then ends with a fault and touches no array (60 R239, log entry 11). A block in
progress runs on the arrays it started with, whatever STATUS says meanwhile (44 R211, log entry 10). -/
def State.usedArrays (s : State) (i : Instr) : Except Cause (List (Nat × Nat) × List (Nat × Nat)) :=
  match i with
  | .processStereo => do
    if s.refuses i || decide (s.len = 0) then .ok ([], [])
    else
      let _ ← s.argI32 5
      let a ← s.stereoArgs
      .ok a.ranges
  | .audioBlock =>
    match s.block with
    | some b => .ok b.arrays.ranges
    | none => do
      if s.refuses i then .ok ([], [])
      else
        let a ← s.stereoArgs
        .ok a.ranges
  | .rsDownsample u | .rsUpsample u => do
    if s.refuses i then .ok ([], [])
    else
      let a ← s.resampleArgs
      let _ ← s.resamplers[resamplerIx u].regs
      .ok a.ranges
  | .prepare | .reset | .fltSetcoef _ _ | .fltProcess _ | .fltReset _ | .rsReset _ | .dlyStep => .ok ([], [])
  | .peakUpdate _ | .peakRead _ | .didxWrite | .didxRead | .statusRead | .testctlWrite => .ok ([], [])

/-- The input and output arrays that the command standing in a port's CMD runs on; none where it is illegal or its
operands fail a test. -/
def State.commandArrays (s : State) (p : Port) : List (Nat × Nat) × List (Nat × Nat) :=
  match (s.port p).cmd with
  | none => ([], [])
  | some w =>
    match decodeOn p w with
    | .error _ => ([], [])
    | .ok i =>
      match ({ s with active := p } : State).usedArrays i with
      | .ok r => r
      | .error _ => ([], [])

/-- An address is a byte of an input array of a running command (20 R87). -/
def State.inputBusy (s : State) (a : Nat) : Bool :=
  (s.commandArrays .p0).1.any fun r => inArray r.1 r.2 a

/-- An address is a byte of an output array of a running command (20 R87). -/
def State.outputBusy (s : State) (a : Nat) : Bool :=
  (s.commandArrays .p0).2.any fun r => inArray r.1 r.2 a

/-- The host writes ARGk (10 R31, R32). -/
def State.writeArg (s : State) (p : Port) (k : Fin 8) (v : Reg64) : State :=
  s.setPort p { s.port p with args := (s.port p).args.set k (some v) }

/-- The host writes CMD, which starts the command (10 R31). -/
def State.writeCmd (s : State) (p : Port) (w : Word) : State := s.setPort p { s.port p with cmd := some w }

/-- A power cycle (60 R249, 70 R260 (a)): every register of the CORE takes its power-on value. Host memory, the host's
further acts and the names of free values are not the CORE's and stay (log entry 15). That the delay RAMs list nothing after
it, so that every word reads +0.0, is a choice: 70 R262 and 93 U19 leave the contents open (log entry 16). -/
def State.powerCycle (s : State) : State :=
  { State.powerOn s.params with mem := s.mem, inputs := s.inputs, free := s.free }

/-- The host's next act, the rest of its acts being in `s.inputs` already. An act on a busy port waits (70 R266): the
port takes a step instead and the act stays first. A touch of a running command's arrays has no meaning (20 R87). -/
def hostStep (e : HostEvent) (s : State) : Host.Outcome State Fault Refusal :=
  match e with
  | .writeArg p k v => if s.busy p then portStep p { s with inputs := e :: s.inputs } else .next (s.writeArg p k v)
  | .writeCmd p w => if s.busy p then portStep p { s with inputs := e :: s.inputs } else .next (s.writeCmd p w)
  | .readRes p _ => if s.busy p then portStep p { s with inputs := e :: s.inputs } else .next s
  | .writeMem a b =>
    if s.inputBusy a.toNat || s.outputBusy a.toNat then .fault .hostTouchedBusyArray
    else .next { s with mem := cellsSet s.mem a.toNat b }
  | .readMem a => if s.outputBusy a.toNat then .fault .hostTouchedBusyArray else .next s
  | .run p => portStep p s
  | .powerCycle => .next s.powerCycle

/-- One step where the host's list says nothing more: a port that has a command takes an atomic step. Where both have
one, either may be first (20 R84): a free value. Where none has one, the CORE is idle and holds all state (60 R249). -/
def freeRun (s : State) : Host.Outcome State Fault Refusal :=
  if s.busy .p0 && s.busy .p1 then
    portStep (if Config.controlFirst [s.free] then .p1 else .p0) s.tick
  else if s.busy .p0 then portStep .p0 s
  else portStep .p1 s

/-- One step of the whole: the host's next act, or a port's step. -/
def machineStep (s : State) : Host.Outcome State Fault Refusal :=
  match s.inputs with
  | [] => freeRun s
  | e :: rest => hostStep e { s with inputs := rest }

/-- The state in which the audio port holds a command word that the very next step carries out: the word in CMD, no block
in progress, and the schedule's word that P0 takes a step, before anything else the host does. -/
def State.placeCommand (s : State) (w : Word) : State :=
  { (s.writeCmd .p0 w) with block := none, inputs := .run .p0 :: s.inputs }

end Sys2Proof.Machine
end

