-- ==== Sys2Proof/Machine/Step.lean ====
section
/-! DEFINITION. One step of the machine, and where a step finds its next command. -/

namespace Sys2Proof.Machine

/-- One step: the host's next act or one atomic step of a port (20 R83, R84). -/
def step (s : State) : Host.Outcome State Fault Refusal := machineStep s

/-- `s` with the command word `w`, every bit above `nbits` being 0, placed so that the very next step carries it out. -/
def State.withFetchWord (s : State) (nbits w : Nat) : State :=
  s.placeCommand (BitVec.ofNat 32 (w % 2 ^ min nbits 32))

end Sys2Proof.Machine
end

