-- ==== Sys2Proof/Safety.lean ====
section
/-!
DEFINITION. What counts as a good state, an accepted command and a clean run, in the terms the statements use.
-/

namespace Sys2Proof

/-- The ARG registers a command reads (30 R109). -/
def Instr.argsRead : Instr → List (Fin 8)
  | .prepare => [0, 1]
  | .reset => []
  | .processStereo => [0, 1, 2, 3, 4, 5]
  | .audioBlock => [0, 1, 2, 3, 4]
  | .fltSetcoef _ _ => [0, 1]
  | .fltProcess _ => [0]
  | .fltReset _ => []
  | .rsDownsample _ => [0, 1, 2, 3, 4, 5]
  | .rsUpsample _ => [0, 1, 2, 3, 4, 5]
  | .rsReset _ => []
  | .dlyStep => [0, 1, 2]
  | .peakUpdate _ => [0]
  | .peakRead _ => []
  | .didxWrite => [0]
  | .didxRead => []
  | .statusRead => []
  | .testctlWrite => [0]

namespace Machine

/-- The parameters are admitted ones (00 R9, R10, R14). -/
def paramsAdmitted (c : Params) : Bool :=
  decide (24 ≤ c.delayRamWords) && decide (1 ≤ c.scratchCap) && c.peakInit.all fun v => ge32 v 0#32

/-- Host memory and both delay RAMs are in canonical form. -/
def State.canonical (s : State) : Bool := Memory.wf s.mem && cellsWf s.bufL && cellsWf s.bufR

/-- All four registers of a filter unit are written (10 R44). -/
def FilterUnit.isWritten (f : FilterUnit) : Bool :=
  f.a.isSome && f.kind.isSome && f.yPrev.isSome && f.xPrev.isSome

/-- Both registers of a resampler unit are written (10 R46). -/
def ResamplerUnit.isWritten (r : ResamplerUnit) : Bool := r.phase.isSome && r.last.isSome

/-- A host rate PREPARE accepts: finite and above 20000.0 (42 R179). -/
def rateAccepted (fs : F64) : Bool := isFinite64 fs && gt64 fs minHostRate

/-- The session's invariant: LEN within the RAM; while LEN > 0, LEN at least 24, `0 <= WRITE_POS < LEN`, and HOST_RATE,
every filter and every resampler written (10 R41, R42, R52, 42 R179, R182). -/
def State.sessionOk (s : State) : Bool :=
  decide (s.len ≤ s.params.delayRamWords) &&
  (decide (s.len = 0) ||
    (decide (24 ≤ s.len) && s.writePos.any (fun w => decide (w < s.len)) && s.hostRate.any rateAccepted &&
     s.filters.all FilterUnit.isWritten && s.resamplers.all ResamplerUnit.isWritten))

/-- Every peak register is non-negative and not NaN (43 R203 (a)). -/
def State.peaksOk (s : State) : Bool := s.peaks.all fun v => ge32 v 0#32

/-- TESTCTL bits 31:1 hold 0 (10 R37). -/
def State.testctlOk (s : State) : Bool := decide (s.testctl.extractLsb' 1 31 = 0#31)

/-- Every written filter coefficient is in `(0.0, 1.0]` (40 R130, R135). -/
def State.coefsOk (s : State) : Bool := s.filters.all fun f => f.a.all admittedCoef

/-- A block in progress stands at a sub-step that exists for its N (44 R211). -/
def Block.stageOk (b : Block) : Bool :=
  match b.stage with
  | .meterIn i _ => decide (i < b.n)
  | .process => true
  | .meterOut i _ => decide (i < b.n)

/-- A block is in progress only while P0's CMD holds AUDIO_BLOCK (44 R211, 70 R266). -/
def State.blockOk (s : State) : Bool :=
  match s.block with
  | none => true
  | some b => decide (s.p0.cmd = some (encode .audioBlock)) && b.stageOk

/-- The command passes the first two tests of 60 R237: a legal word its port accepts, and not refused by a dead
session. -/
def State.accepts (s : State) (i : Instr) : Prop :=
  i.wf = true ∧ i.acceptedOn s.active = true ∧
  (s.fault = none ∨ s.active = .p1 ∨ i.servesDeadSession = true)

/-- An AUDIO_BLOCK that is carried on, not started (44 R211). -/
def State.resumes (s : State) (i : Instr) : Prop := i = .audioBlock ∧ s.active = .p0 ∧ s.block.isSome = true

/-- The ARG register of the issuing port holds a value. -/
def State.argIs (s : State) (k : Fin 8) (v : Reg64) : Prop := (s.port s.active).args[k] = some v

/-- The array operands of PROCESS_STEREO and AUDIO_BLOCK stand in ARG0..ARG4 and pass alignment, range and the overlap
rules, with a count that is not negative (42 R180, 20 R74, R75, R79). -/
def State.stereoReady (s : State) (a : StereoArrays) : Prop :=
  s.argAddr 0 = .ok a.inL ∧ s.argAddr 1 = .ok a.inR ∧ s.argAddr 2 = .ok a.outL ∧ s.argAddr 3 = .ok a.outR ∧
  s.argI32 4 = .ok (a.n : Int) ∧
  memCheck a.inL a.n = .ok () ∧ memCheck a.inR a.n = .ok () ∧ memCheck a.outL a.n = .ok () ∧
  memCheck a.outR a.n = .ok () ∧ a.disjoint = true

/-- The operands of a resampler command stand in ARG0..ARG5 and pass every test (41 R153). -/
def State.resampleReady (s : State) (a : ResampleArgs) (inRate outRate : F64) : Prop :=
  s.argAddr 0 = .ok a.inBase ∧ s.argI32 1 = .ok (a.n : Int) ∧ s.argAddr 2 = .ok a.outBase ∧
  s.argI32 3 = .ok (a.count : Int) ∧ s.argF64 4 = .ok inRate ∧ s.argF64 5 = .ok outRate ∧
  memCheck a.inBase a.n = .ok () ∧ memCheck a.outBase a.count = .ok () ∧
  overlap a.inBase a.n a.outBase a.count = false ∧
  positive64 inRate = true ∧ positive64 outRate = true ∧
  a.ratio = div64 [] inRate outRate ∧ positive64 a.ratio = true

/-- AUDIO_BLOCK carried out `k` times over with nothing between (44 R211): what P0 does when P1 stays silent. -/
def audioRun : Nat → State → State
  | 0, s => s
  | k + 1, s =>
    match exec .audioBlock s with
    | .next t => audioRun k t
    | .fault _ => s
    | .refused _ => s

/-- The rows of 30 R105 as ranges: OPC, how many UNIT values, how many MODE values, and whether P1 accepts the row. -/
def legalRanges : List (Nat × Nat × Nat × Bool) :=
  [(0x01, 1, 1, false), (0x02, 1, 1, false), (0x03, 1, 1, false), (0x04, 1, 1, false), (0x10, 8, 2, false),
   (0x11, 8, 1, false), (0x12, 8, 1, false), (0x20, 4, 1, false), (0x21, 4, 1, false), (0x22, 4, 1, false)] ++
  [(0x30, 1, 1, false), (0x40, 4, 1, false), (0x41, 4, 1, true), (0x50, 1, 1, true), (0x51, 1, 1, true),
   (0x52, 1, 1, true), (0x53, 1, 1, false)]

/-- A word a port may receive without ILLEGAL: a defined OPC, RSVD = 0, UNIT and MODE in the row's range, and the row
accepted on the port (30 R111, R112, 60 R233). -/
def wordLegal (p : Port) (w : Word) : Bool :=
  legalRanges.any fun r =>
    r.1 == (opcField w).toNat && rsvdField w == 0#16 && decide ((unitField w).toNat < r.2.1) &&
    decide ((modeField w).toNat < r.2.2.1) && (p == .p0 || r.2.2.2)

/-- A run of which nothing has been refused and in which no fault has been taken (60 R238). -/
def State.clean (s : State) : Bool := s.faultLog.isEmpty

end Machine

end Sys2Proof
end

