-- ==== Sys2Proof/Certificates/Slice0/Obligations.lean ====
section
/-!
DEFINITION. The statements about the WetDelay CORE model that the provers settle. Each docstring names the rule of spec/
it comes from. `s.accepts i` says that the command passes the first two tests of 60 R237.
-/

open Sys2Proof Sys2Proof.Machine

/-! ### Encoding -/

/-- The thirteen examples of 30 R118. -/
def Obligations.SpecExampleWordsDecode : Prop :=
  decode 0x01000000#32 = .ok .prepare ∧
  decode 0x10600000#32 = .ok (.fltSetcoef 6#4 .lp) ∧
  decode 0x10410000#32 = .ok (.fltSetcoef 4#4 .hp) ∧
  decode 0x11700000#32 = .ok (.fltProcess 7#4) ∧
  decode 0x20100000#32 = .ok (.rsDownsample 1#4) ∧
  decode 0x21300000#32 = .ok (.rsUpsample 3#4) ∧
  decode 0x30000000#32 = .ok .dlyStep ∧
  decode 0x40200000#32 = .ok (.peakUpdate 2#4) ∧
  decode 0x41300000#32 = .ok (.peakRead 3#4) ∧
  decode 0x50000000#32 = .ok .didxWrite ∧
  decode 0x53000000#32 = .ok .testctlWrite ∧
  decode 0x11800000#32 = .error .unit ∧
  decode 0x10020000#32 = .error .mode

/-- Decode and encode agree for every well-formed command, at every UNIT and MODE the encoding admits (30 R100, R103,
R104, R105). -/
def Obligations.DecodeOfEncode : Prop := ∀ i : Instr, i.wf = true → decode (encode i) = .ok i

/-- A word has one meaning: what decodes is well formed and encodes to the word it came from (30 R100, R102, R105). -/
def Obligations.EncodeOfDecode : Prop :=
  ∀ (w : Word) (i : Instr), decode w = .ok i → i.wf = true ∧ encode i = w

/-- 30 R105: a word encodes the row whose `(w AND mask) == match`; at most one row matches; a word matching no row is
illegal; and the rows P1 accepts are those the table marks. -/
def Obligations.DecodeAgreesWithOpcodeTable : Prop :=
  (∀ (w : Word) (i : Instr), decode w = .ok i →
    ∃ r ∈ opcodeTable, r.matches w = true ∧ r.mnemonic = i.mnemonic ∧ r.onP1 = i.onControlPort) ∧
  (∀ (w : Word), ∀ r ∈ opcodeTable, r.matches w = true →
    ∃ i, decode w = .ok i ∧ i.mnemonic = r.mnemonic ∧ i.onControlPort = r.onP1) ∧
  (∀ (w : Word), ∀ r ∈ opcodeTable, ∀ q ∈ opcodeTable, r.matches w = true → q.matches w = true → r = q) ∧
  (∀ (w : Word), (∀ r ∈ opcodeTable, r.matches w = false) → ∃ e, decode w = .error e)

/-- 60 R233: a word with an undefined OPC, a nonzero RSVD, a UNIT or MODE out of range, or on a port that does not
accept it, raises ILLEGAL whatever else holds, and every other word is decoded. -/
def Obligations.IllegalWordTakesFault : Prop :=
  (∀ (p : Port) (w : Word), (∃ i, decodeOn p w = .ok i) ↔ wordLegal p w = true) ∧
  (∀ (s : State) (p : Port) (w : Word), (s.port p).cmd = some w → wordLegal p w = false →
    portStep p s = .next ((s.faultEntry p w .illegal).dropCommand p))

/-- 30 R112: P1 accepts PEAK_READ, DIDX_WRITE, DIDX_READ and STATUS_READ; any other legal word on P1 raises ILLEGAL;
P0 accepts every row. -/
def Obligations.ControlPortAcceptsFourCommands : Prop :=
  (∀ i : Instr, i.wf = true → decodeOn .p0 (encode i) = .ok i) ∧
  (∀ i : Instr, i.wf = true →
    (decodeOn .p1 (encode i) = .ok i ↔
      (∃ u, i = .peakRead u) ∨ i = .didxWrite ∨ i = .didxRead ∨ i = .statusRead)) ∧
  (∀ (i : Instr) (s : State), i.wf = true → s.p1.cmd = some (encode i) →
    ¬ ((∃ u, i = .peakRead u) ∨ i = .didxWrite ∨ i = .didxRead ∨ i = .statusRead) →
    portStep .p1 s = .next ((s.faultEntry .p1 (encode i) .illegal).dropCommand .p1))

/-! ### Running a command -/

/-- A step runs the decoded command. When the word in a port's CMD decodes on that port and the port is the one that
steps (the schedule says so, or the host's list is empty and no other port is busy), the step is `exec` of the decoded
command, issued on that port; then the command leaves CMD, unless it is an AUDIO_BLOCK that still has sub-steps
(20 R83, R84, 30 R114, 44 R211). A word that does not decode takes ILLEGAL and leaves CMD (60 R233); a port without a command
does nothing. While the host's list is empty: with both ports busy the step is one of either port, which a free value says
(20 R84, log entry 8); with none busy the state is held (60 R249). -/
def Obligations.StepRunsDecodedCommand : Prop :=
  (∀ (s : State) (p : Port) (w : Word) (rest : List HostEvent),
    (s.inputs = .run p :: rest ∨ (s.inputs = [] ∧ rest = [] ∧ ∀ q, q ≠ p → (s.port q).cmd = none)) →
    (s.port p).cmd = some w →
    (∀ i : Instr, decodeOn p w = .ok i →
      step s =
        (match exec i { s with inputs := rest, active := p } with
         | .next t =>
           .next (if i = .audioBlock ∧ p = .p0 ∧ t.block.isSome = true then t
                  else t.setPort p { t.port p with cmd := none })
         | .fault r => .fault r
         | .refused r => .refused r)) ∧
    (∀ e : Illegal, decodeOn p w = .error e →
      step s = .next ((({ s with inputs := rest } : State).faultEntry p w .illegal).setPort p
        { s.port p with cmd := none }))) ∧
  (∀ (s : State) (p : Port) (rest : List HostEvent), s.inputs = .run p :: rest → (s.port p).cmd = none →
    step s = .next { s with inputs := rest }) ∧
  (∀ (s : State) (w v : Word), s.inputs = [] → s.p0.cmd = some w → s.p1.cmd = some v →
    step s = step { s with
      inputs := [.run (if Config.controlFirst [s.free] = true then .p1 else .p0)]
      free := s.free + 1 }) ∧
  (∀ s : State, s.inputs = [] → s.p0.cmd = none → s.p1.cmd = none → step s = .next s)

/-- 70 R266, 10 R31: the host's write of ARG or CMD of an idle port lands, the write of CMD starting the command, and its
read of RES changes nothing; on a busy port each of the three waits, and the port takes a step meanwhile. The list of acts
is the model's choice (log entry 8). -/
def Obligations.HostWriteWaitsForBusyPort : Prop :=
  ∀ (s : State) (p : Port) (rest : List HostEvent),
    ((s.port p).cmd = none →
      (∀ (k : Fin 8) (v : Reg64), s.inputs = .writeArg p k v :: rest →
        step s = .next (({ s with inputs := rest } : State).setPort p
          { s.port p with args := (s.port p).args.set k (some v) })) ∧
      (∀ w : Word, s.inputs = .writeCmd p w :: rest →
        step s = .next (({ s with inputs := rest } : State).setPort p { s.port p with cmd := some w })) ∧
      (∀ j : Fin 2, s.inputs = .readRes p j :: rest → step s = .next { s with inputs := rest })) ∧
    (∀ (w : Word) (e : HostEvent), (s.port p).cmd = some w →
      ((∃ k v, e = .writeArg p k v) ∨ (∃ v, e = .writeCmd p v) ∨ (∃ j, e = .readRes p j)) → s.inputs = e :: rest →
      step s = portStep p s ∧
      (∀ t, step s = .next t →
        t.inputs = s.inputs ∧ (t.port p).args = (s.port p).args ∧
        ((t.port p).cmd = some w ∨ (t.port p).cmd = none)))

/-- 20 R87, 70 R267 as the model takes them (log entry 11), for every command in P0's CMD. While it runs on arrays (a
PROCESS_STEREO, an AUDIO_BLOCK to start or in progress, an RS_DOWNSAMPLE or RS_UPSAMPLE, its operands good and no dead
session refusing it), a host write to a byte of one of them, or a host read of a byte of an output array, stops the run by
name, and any other touch has its effect. While it runs on none (another command, or one that is refused, finds LEN = 0,
reads an unwritten ARG or register or fails a test on its arrays), every host write lands and every read changes nothing; and
so while CMD of P0 is empty or holds an illegal word, whatever P1 does. A write that lands is the byte's value and no other's
(20 R78). -/
def Obligations.HostTouchOfRunningArraysStops : Prop :=
  (∀ (s : State) (i : Instr) (adr : BitVec 64) (v : Byte) (rest : List HostEvent), i.wf = true →
    s.p0.cmd = some (encode i) →
    let p : State := { s with active := .p0 }
    let written : State := { s with inputs := rest, mem := cellsSet s.mem adr.toNat v }
    let touched (l : List (Nat × Nat)) : Bool := l.any fun r => inArray r.1 r.2 adr.toNat
    (∀ ins outs : List (Nat × Nat),
      ((∃ (a : StereoArrays) (ms : Int), i = .processStereo ∧ s.fault = none ∧ 0 < s.len ∧ p.stereoReady a ∧
          p.argI32 5 = .ok ms ∧ ins = [(a.inL, a.n), (a.inR, a.n)] ∧ outs = [(a.outL, a.n), (a.outR, a.n)]) ∨
        (∃ a : StereoArrays, i = .audioBlock ∧ s.fault = none ∧ s.block = none ∧ p.stereoReady a ∧
          ins = [(a.inL, a.n), (a.inR, a.n)] ∧ outs = [(a.outL, a.n), (a.outR, a.n)]) ∨
        (∃ b : Block, i = .audioBlock ∧ s.block = some b ∧
          ins = [(b.inL, b.n), (b.inR, b.n)] ∧ outs = [(b.outL, b.n), (b.outR, b.n)]) ∨
        (∃ (u : BitVec 4) (a : ResampleArgs) (x y : F64), (i = .rsDownsample u ∨ i = .rsUpsample u) ∧ s.fault = none ∧
          p.resampleReady a x y ∧ s.resamplers[resamplerIx u].isWritten = true ∧
          ins = [(a.inBase, a.n)] ∧ outs = [(a.outBase, a.count)])) →
      (s.inputs = .writeMem adr v :: rest →
        step s = if touched (ins ++ outs) then .fault .hostTouchedBusyArray else .next written) ∧
      (s.inputs = .readMem adr :: rest →
        step s = if touched outs then .fault .hostTouchedBusyArray else .next { s with inputs := rest })) ∧
    (¬ (i = .audioBlock ∧ s.block.isSome = true) →
      (s.fault ≠ none ∨ (i = .processStereo ∧ s.len = 0) ∨ (∃ k ∈ i.argsRead, s.p0.args[k] = none) ∨
        ((i = .processStereo ∨ i = .audioBlock) ∧ ∃ c, p.stereoArgs = .error c) ∨
        (∃ u, (i = .rsDownsample u ∨ i = .rsUpsample u) ∧
          ((∃ c, p.resampleArgs = .error c) ∨ s.resamplers[resamplerIx u].isWritten = false)) ∨
        (i ≠ .processStereo ∧ i ≠ .audioBlock ∧ ∀ u, i ≠ .rsDownsample u ∧ i ≠ .rsUpsample u)) →
      (s.inputs = .writeMem adr v :: rest → step s = .next written) ∧
      (s.inputs = .readMem adr :: rest → step s = .next { s with inputs := rest }))) ∧
  (∀ (s : State) (adr : BitVec 64) (v : Byte) (rest : List HostEvent),
    (s.p0.cmd = none ∨ ∃ w, s.p0.cmd = some w ∧ wordLegal .p0 w = false) →
    (s.inputs = .writeMem adr v :: rest →
      step s = .next { s with inputs := rest, mem := cellsSet s.mem adr.toNat v }) ∧
    (s.inputs = .readMem adr :: rest → step s = .next { s with inputs := rest })) ∧
  (∀ (m : List Host.Cell) (adr : BitVec 64) (v : Byte), Memory.wf m = true →
    cellsGet (cellsSet m adr.toNat v) adr.toNat = v ∧
    ∀ b, b ≠ adr.toNat → cellsGet (cellsSet m adr.toNat v) b = cellsGet m b)

/-- No command's meaning stops: every one of them answers a next state, in every state (60 R230, R239, R250). -/
def Obligations.ExecAlwaysAnswersNext : Prop := ∀ (i : Instr) (s : State), ∃ t, exec i s = .next t

/-! ### Faults -/

/-- 60 R239, R238, R240: a command that adds to FAULT_LOG has no effect but a fault's entry or a refusal's. -/
def Obligations.FaultsArePrecise : Prop :=
  ∀ (i : Instr) (s t : State), s.sessionOk = true → exec i s = .next t → t.faultLog ≠ s.faultLog →
    (∃ c : Cause, t = { s with
        fault := some c
        len := if c = .alloc then 0 else s.len
        faultLog := s.faultLog ++ [{ port := s.active, word := encode i, what := .fault c }] }) ∨
    t = { s with faultLog := s.faultLog ++ [{ port := .p0, word := encode i, what := .refused }] }

/-- 60 R238: nothing a step does but a power cycle takes an entry out of FAULT_LOG, and a fault entry sets FAULT and
the code of 60 R231. -/
def Obligations.FaultLogOnlyGrows : Prop :=
  (∀ (s t : State), s.inputs.head? ≠ some .powerCycle → step s = .next t →
    ∃ l, t.faultLog = s.faultLog ++ l) ∧
  (∀ (s : State) (p : Port) (w : Word) (c : Cause),
    (s.faultEntry p w c).faulted = true ∧
    (s.faultEntry p w c).causeCode =
      match c with
      | .illegal => 1#4
      | .memory => 2#4
      | .precondition => 3#4
      | .uninit => 4#4
      | .alloc => 5#4)

/-- 60 R240, 42 R179: nothing but a PREPARE on P0 (or a power cycle) ends a dead session. -/
def Obligations.OnlyPrepareEndsDeadSession : Prop :=
  ∀ (s t : State), s.inputs.head? ≠ some .powerCycle → step s = .next t → s.fault ≠ none → t.fault = none →
    s.p0.cmd = some (encode .prepare)

/-- 60 R240: while FAULT = 1, a legal P0 command other than PREPARE and STATUS_READ is refused: FAULT_LOG grows by
`(P0, word, REFUSED)` and nothing else changes. A block already in progress is not issued anew. -/
def Obligations.DeadSessionRefuses : Prop :=
  ∀ (i : Instr) (s : State), i.wf = true → s.active = .p0 → s.fault ≠ none → i ≠ .prepare → i ≠ .statusRead →
    ¬ (i = .audioBlock ∧ s.block.isSome = true) →
    exec i s =
      .next { s with faultLog := s.faultLog ++ [{ port := .p0, word := encode i, what := .refused }] }

/-- 10 R31, 60 R236 (a), R237: a command that reads an ARG the host never wrote raises UNINIT before every test of
values and of state; PROCESS_STEREO while LEN = 0 reads none. -/
def Obligations.UnwrittenArgTakesUninit : Prop :=
  ∀ (i : Instr) (s : State) (k : Fin 8), s.accepts i → ¬ s.resumes i → k ∈ i.argsRead →
    (s.port s.active).args[k] = none → ¬ (i = .processStereo ∧ s.len = 0) →
    exec i s = .next (s.faultEntry s.active (encode i) .uninit)

/-- 60 R236 (b), (c), (d), (e): the reads of unwritten state that raise UNINIT once the operands have passed. -/
def Obligations.UnwrittenStateTakesUninit : Prop :=
  (∀ (s : State) (u : BitVec 4) (v : Reg64), s.accepts (.fltProcess u) → s.argIs 0 v →
    s.filters[filterIx u].isWritten = false →
    exec (.fltProcess u) s = .next (s.faultEntry s.active (encode (.fltProcess u)) .uninit)) ∧
  (∀ (s : State) (u : BitVec 4) (a : ResampleArgs) (x y : F64), s.accepts (.rsDownsample u) →
    s.resampleReady a x y → s.resamplers[resamplerIx u].isWritten = false →
    exec (.rsDownsample u) s = .next (s.faultEntry s.active (encode (.rsDownsample u)) .uninit)) ∧
  (∀ (s : State) (u : BitVec 4) (a : ResampleArgs) (x y : F64), s.accepts (.rsUpsample u) →
    s.resampleReady a x y → s.resamplers[resamplerIx u].isWritten = false →
    exec (.rsUpsample u) s = .next (s.faultEntry s.active (encode (.rsUpsample u)) .uninit)) ∧
  (∀ (s : State) (x y d : Reg64), s.accepts .dlyStep → s.argIs 0 x → s.argIs 1 y → s.argIs 2 d → s.len = 0 →
    exec .dlyStep s = .next (s.faultEntry s.active (encode .dlyStep) .uninit)) ∧
  (∀ (s : State) (a : StereoArrays), s.accepts .audioBlock → s.block = none → s.stereoReady a →
    s.delayIndex = none → exec .audioBlock s = .next (s.faultEntry s.active (encode .audioBlock) .uninit)) ∧
  (∀ (s : State), s.accepts .didxRead → s.delayIndex = none →
    exec .didxRead s = .next (s.faultEntry s.active (encode .didxRead) .uninit))

/-- 60 R234, 20 R74, R75, R79: a misaligned or out-of-range array, or a forbidden overlap, raises MEMORY, whatever the
counts' signs (a count below zero is checked as zero) and whatever the other operands: first for PROCESS_STEREO and
AUDIO_BLOCK (R79 (a)), then for RS_DOWNSAMPLE and RS_UPSAMPLE (R79 (b)). Then the allowed side: what passes the check of one
array, when two overlap (they share a byte), and which operands are good: aligned arrays in range that share no byte, or,
between `inL` and `outL` and between `inR` and `outR`, share the base (in place); `inL` and `inR` may overlap freely. -/
def Obligations.ArrayChecksTakeMemory : Prop :=
  (∀ (i : Instr) (s : State) (v0 v1 v2 v3 v4 v5 : Reg64) (n : Nat),
    ((i = .processStereo ∧ 0 < s.len) ∨ (i = .audioBlock ∧ s.block = none)) → s.accepts i →
    s.argIs 0 v0 → s.argIs 1 v1 → s.argIs 2 v2 → s.argIs 3 v3 → s.argIs 4 v4 →
    (i = .processStereo → s.argIs 5 v5) → n = (lowHalf v4).toInt.toNat →
    ((∃ v ∈ [v0, v1, v2, v3], v.toNat % 4 ≠ 0 ∨ (0 < n ∧ 2 ^ 64 - 1 < v.toNat + 4 * n - 1)) ∨
      overlap v2.toNat n v3.toNat n = true ∨ overlap v2.toNat n v1.toNat n = true ∨
      overlap v3.toNat n v0.toNat n = true ∨
      (v0 ≠ v2 ∧ overlap v0.toNat n v2.toNat n = true) ∨ (v1 ≠ v3 ∧ overlap v1.toNat n v3.toNat n = true)) →
    exec i s = .next (s.faultEntry s.active (encode i) .memory)) ∧
  (∀ (i : Instr) (s : State) (v0 v1 v2 v3 v4 v5 : Reg64) (n m : Nat),
    ((∃ u, i = .rsDownsample u) ∨ (∃ u, i = .rsUpsample u)) → s.accepts i →
    s.argIs 0 v0 → s.argIs 1 v1 → s.argIs 2 v2 → s.argIs 3 v3 → s.argIs 4 v4 → s.argIs 5 v5 →
    n = (lowHalf v1).toInt.toNat → m = (lowHalf v3).toInt.toNat →
    (v0.toNat % 4 ≠ 0 ∨ v2.toNat % 4 ≠ 0 ∨ (0 < n ∧ 2 ^ 64 - 1 < v0.toNat + 4 * n - 1) ∨
      (0 < m ∧ 2 ^ 64 - 1 < v2.toNat + 4 * m - 1) ∨ overlap v0.toNat n v2.toNat m = true) →
    exec i s = .next (s.faultEntry s.active (encode i) .memory)) ∧
  (∀ base n : Nat, memCheck base n = .ok () ↔ base % 4 = 0 ∧ (n = 0 ∨ base + 4 * n ≤ 2 ^ 64)) ∧
  (∀ a n b m : Nat, overlap a n b m = true ↔ ∃ x, (a ≤ x ∧ x < a + 4 * n) ∧ b ≤ x ∧ x < b + 4 * m) ∧
  (∀ (s : State) (v0 v1 v2 v3 v4 : Reg64) (n : Nat),
    s.argIs 0 v0 → s.argIs 1 v1 → s.argIs 2 v2 → s.argIs 3 v3 → s.argIs 4 v4 → (lowHalf v4).toInt = (n : Int) →
    let apart (b c : Reg64) : Prop := n = 0 ∨ b.toNat + 4 * n ≤ c.toNat ∨ c.toNat + 4 * n ≤ b.toNat
    (∀ v ∈ [v0, v1, v2, v3], v.toNat % 4 = 0 ∧ (n = 0 ∨ v.toNat + 4 * n ≤ 2 ^ 64)) →
    apart v2 v3 → apart v2 v1 → apart v3 v0 → (v0 = v2 ∨ apart v0 v2) → (v1 = v3 ∨ apart v1 v3) →
    s.stereoReady { inL := v0.toNat, inR := v1.toNat, outL := v2.toNat, outR := v3.toNat, n := n }) ∧
  (∀ (s : State) (v0 v1 v2 v3 v4 v5 : Reg64) (n m : Nat),
    s.argIs 0 v0 → s.argIs 1 v1 → s.argIs 2 v2 → s.argIs 3 v3 → s.argIs 4 v4 → s.argIs 5 v5 →
    (lowHalf v1).toInt = (n : Int) → (lowHalf v3).toInt = (m : Int) →
    v0.toNat % 4 = 0 → (n = 0 ∨ v0.toNat + 4 * n ≤ 2 ^ 64) → v2.toNat % 4 = 0 → (m = 0 ∨ v2.toNat + 4 * m ≤ 2 ^ 64) →
    (n = 0 ∨ m = 0 ∨ v0.toNat + 4 * n ≤ v2.toNat ∨ v2.toNat + 4 * m ≤ v0.toNat) →
    (∀ r ∈ [v4, v5, div64 [] v4 v5], isFinite64 r = true ∧ gt64 r 0#64 = true) →
    s.resampleReady { inBase := v0.toNat, n := n, outBase := v2.toNat, count := m, ratio := div64 [] v4 v5 } v4 v5)

/-- 60 R235, its rows for PREPARE, FLT_SETCOEF, DIDX_WRITE and TESTCTL_WRITE: each condition raises PRECONDITION. -/
def Obligations.ScalarOperandPreconditions : Prop :=
  (∀ (s : State) (fs m : Reg64), s.accepts .prepare → s.argIs 0 fs → s.argIs 1 m →
    (isFinite64 fs = false ∨ gt64 fs 0x40D3880000000000#64 = false ∨ (lowHalf m).toInt < 1) →
    exec .prepare s = .next (s.faultEntry s.active (encode .prepare) .precondition)) ∧
  (∀ (s : State) (u : BitVec 4) (k : FilterType) (fs fc : Reg64), s.accepts (.fltSetcoef u k) →
    s.argIs 0 fs → s.argIs 1 fc →
    (isFinite64 fs = false ∨ gt64 fs 0#64 = false ∨ isFinite64 fc = false ∨ lt64 fc 0#64 = true ∨
      lt64 fc (div64 [] fs 0x4000000000000000#64) = false) →
    exec (.fltSetcoef u k) s = .next (s.faultEntry s.active (encode (.fltSetcoef u k)) .precondition)) ∧
  (∀ (s : State) (v : Reg64), s.accepts .didxWrite → s.argIs 0 v →
    ((lowHalf v).toInt < 0 ∨ 5 < (lowHalf v).toInt) →
    exec .didxWrite s = .next (s.faultEntry s.active (encode .didxWrite) .precondition)) ∧
  (∀ (s : State) (v : Reg64), s.accepts .testctlWrite → s.argIs 0 v → 1 < (lowHalf v).toNat →
    exec .testctlWrite s = .next (s.faultEntry s.active (encode .testctlWrite) .precondition))

/-- 60 R235, its rows for PROCESS_STEREO, AUDIO_BLOCK, RS_DOWNSAMPLE and RS_UPSAMPLE: with the arrays in order, a count
below zero, a rate not finite and positive, or a ratio not finite and positive raises PRECONDITION. -/
def Obligations.ArrayCommandPreconditions : Prop :=
  (∀ (i : Instr) (s : State) (v0 v1 v2 v3 v4 v5 : Reg64),
    ((i = .processStereo ∧ 0 < s.len) ∨ (i = .audioBlock ∧ s.block = none)) → s.accepts i →
    s.argIs 0 v0 → s.argIs 1 v1 → s.argIs 2 v2 → s.argIs 3 v3 → s.argIs 4 v4 →
    (i = .processStereo → s.argIs 5 v5) →
    (∀ v ∈ [v0, v1, v2, v3], v.toNat % 4 = 0) → (lowHalf v4).toInt < 0 →
    exec i s = .next (s.faultEntry s.active (encode i) .precondition)) ∧
  (∀ (i : Instr) (s : State) (v0 v1 v2 v3 v4 v5 : Reg64) (n m : Nat),
    ((∃ u, i = .rsDownsample u) ∨ (∃ u, i = .rsUpsample u)) → s.accepts i →
    s.argIs 0 v0 → s.argIs 1 v1 → s.argIs 2 v2 → s.argIs 3 v3 → s.argIs 4 v4 → s.argIs 5 v5 →
    n = (lowHalf v1).toInt.toNat → m = (lowHalf v3).toInt.toNat →
    memCheck v0.toNat n = .ok () → memCheck v2.toNat m = .ok () → overlap v0.toNat n v2.toNat m = false →
    ((lowHalf v1).toInt < 0 ∨ (lowHalf v3).toInt < 0 ∨
      ¬ (isFinite64 v4 = true ∧ gt64 v4 0#64 = true) ∨ ¬ (isFinite64 v5 = true ∧ gt64 v5 0#64 = true) ∨
      ¬ (isFinite64 (div64 [] v4 v5) = true ∧ gt64 (div64 [] v4 v5) 0#64 = true)) →
    exec i s = .next (s.faultEntry s.active (encode i) .precondition))

/-- 60 R232: a PREPARE whose buffers do not fit raises ALLOC, which sets LEN to 0 and changes nothing else but STATUS
and FAULT_LOG. -/
def Obligations.AllocFaultEndsSession : Prop :=
  ∀ (s : State) (fs m : Reg64), s.accepts .prepare → s.argIs 0 fs → s.argIs 1 m →
    isFinite64 fs = true → gt64 fs 0x40D3880000000000#64 = true → 1 ≤ (lowHalf m).toInt →
    (s.params.delayRamWords : Int) < 24 * (lowHalf m).toInt →
    exec .prepare s = .next { s with
      fault := some .alloc
      len := 0
      faultLog := s.faultLog ++ [{ port := s.active, word := encode .prepare, what := .fault .alloc }] }

/-! ### The delay engine -/

/-- 42 R179: what a PREPARE that completes leaves, and what it keeps. -/
def Obligations.PrepareCompletes : Prop :=
  ∀ (s : State) (fs m : Reg64), s.accepts .prepare → s.argIs 0 fs → s.argIs 1 m →
    isFinite64 fs = true → gt64 fs 0x40D3880000000000#64 = true → 1 ≤ (lowHalf m).toInt →
    24 * (lowHalf m).toInt ≤ (s.params.delayRamWords : Int) →
    ∃ t, exec .prepare s = .next t ∧
      (t.len : Int) = 24 * (lowHalf m).toInt ∧ t.hostRate = some fs ∧ t.writePos = some 0 ∧
      (∀ k < t.len, cellsGet t.bufL k = 0#32 ∧ cellsGet t.bufR k = 0#32) ∧
      (∀ f : Fin 8, t.filters[f].kind = some (if f = 4 ∨ f = 5 then .hp else .lp) ∧
        t.filters[f].a = some (if f.val < 4 then coefFn s.params.coef fs 0x40C3880000000000#64
          else if f.val < 6 then coefFn s.params.coef 0x40D7700000000000#64 0x4054000000000000#64
          else coefFn s.params.coef 0x40D7700000000000#64 0x40C1940000000000#64) ∧
        t.filters[f].yPrev = some 0#32 ∧ t.filters[f].xPrev = some 0#32) ∧
      (∀ r : Fin 4, t.resamplers[r] = { phase := some 0#64, last := some 0#32 }) ∧
      t.fault = none ∧ t.statusWord = 1#32 ∧
      t = { s with len := t.len, hostRate := t.hostRate, writePos := t.writePos, bufL := t.bufL, bufR := t.bufR,
                   filters := t.filters, resamplers := t.resamplers, fault := t.fault }

/-- 42 R187, R188: what RESET leaves; the cursor is some value in `[0, LEN)` while prepared, else unchanged. That the words
at LEN and above keep what they held, where 93 U19 and 70 R262 leave them open, is the model's choice (log entry 16). -/
def Obligations.ResetClearsHistory : Prop :=
  ∀ (s : State), s.accepts .reset →
    ∃ t, exec .reset s = .next t ∧
      (∀ k < s.len, cellsGet t.bufL k = 0#32 ∧ cellsGet t.bufR k = 0#32) ∧
      (∀ k, s.len ≤ k → cellsGet t.bufL k = cellsGet s.bufL k ∧ cellsGet t.bufR k = cellsGet s.bufR k) ∧
      (∀ f : Fin 8, t.filters[f] = { s.filters[f] with yPrev := some 0#32, xPrev := some 0#32 }) ∧
      (∀ r : Fin 4, t.resamplers[r] = { phase := some 0#64, last := some 0#32 }) ∧
      (0 < s.len → ∃ w, w < s.len ∧ t.writePos = some w) ∧ (s.len = 0 → t.writePos = s.writePos) ∧
      t = { s with bufL := t.bufL, bufR := t.bufR, filters := t.filters, resamplers := t.resamplers,
                   writePos := t.writePos, free := t.free }

/-- 42 R181: while LEN = 0, PROCESS_STEREO changes nothing, ILLEGAL and the refusal of a dead session coming first. -/
def Obligations.UnpreparedProcessStereoIsNoOp : Prop :=
  ∀ (s : State), s.len = 0 →
    (s.active = .p0 → s.fault = none → exec .processStereo s = .next s) ∧
    (s.active = .p0 → s.fault ≠ none → exec .processStereo s =
      .next { s with
        faultLog := s.faultLog ++ [{ port := .p0, word := encode .processStereo, what := .refused }] }) ∧
    (s.active = .p1 → exec .processStereo s = .next (s.faultEntry .p1 (encode .processStereo) .illegal))

/-- 42 R180, R185, 20 R80: a prepared PROCESS_STEREO with good operands completes; the output arrays hold the engine's
outputs on the input arrays as they were, every other byte of memory is unchanged, and so is every register the engine
does not hold. -/
def Obligations.ProcessStereoCompletes : Prop :=
  ∀ (s : State) (a : StereoArrays) (ms : Int), s.accepts .processStereo → s.canonical = true → s.sessionOk = true →
    0 < s.len → s.stereoReady a → s.argI32 5 = .ok ms →
    ∃ t e, exec .processStereo s = .next t ∧ s.engine = .ok e ∧
      readArray s.params.byteOrder t.mem a.outL a.n = (s.blockOutput a ms e).1.1 ∧
      readArray s.params.byteOrder t.mem a.outR a.n = (s.blockOutput a ms e).1.2 ∧
      t.engine = .ok (s.blockOutput a ms e).2 ∧
      (∀ b, inArray a.outL a.n b = false → inArray a.outR a.n b = false → t.byteAt b = s.byteAt b) ∧
      t = { s with mem := t.mem, filters := t.filters, resamplers := t.resamplers, bufL := t.bufL, bufR := t.bufR,
                   writePos := t.writePos, free := t.free }

/-- 42 R180 steps 3 to 7, R182 to R186, R106, R107: the block's signal path, for PROCESS_STEREO and sub-step S2 alike.
The engine is made of HOST_RATE, filter units 0 to 7, resampler units 0 to 3, the cursor and the buffers, each in its place.
The outputs are: anti-alias filtering by units 0 and 1, Downsample by units 0 and 1 to at most R183's count, one delay step
per internal sample up to the shorter channel, Upsample by units 2 and 3 to N samples, reconstruction by units 2 and 3. A run
of filter or delay steps goes sample by sample in order. The count has its values of 95 V-D3. -/
def Obligations.BlockFollowsTheSignalPath : Prop :=
  (∀ (s : State) (a : StereoArrays) (ms : Int) (e : Engine), s.engine = .ok e →
    (s.hostRate = some e.hostRate ∧ s.writePos = some e.line.writePos ∧ e.line.len = s.len ∧
      e.line.bufL = s.bufL ∧ e.line.bufR = s.bufR ∧
      s.filters = #v[e.aaL.toUnit, e.aaR.toUnit, e.recL.toUnit, e.recR.toUnit,
                     e.line.hpL.toUnit, e.line.hpR.toUnit, e.line.lpL.toUnit, e.line.lpR.toUnit] ∧
      s.resamplers = #v[e.downL.toUnit, e.downR.toUnit, e.upL.toUnit, e.upR.toUnit]) ∧
    ∃ q0 q1 q2 q3 q4 q5 q6 q7 q8 q9 q10 q11 q12 : Site,
      let aL := filterRun q0 e.aaL (readArray s.params.byteOrder s.mem a.inL a.n)
      let aR := filterRun q1 e.aaR (readArray s.params.byteOrder s.mem a.inR a.n)
      let cap := min (floorNat64 (div64 q2 (mul64 q3 (i2f64 a.n) 0x40D7700000000000#64) e.hostRate) + 1)
        s.params.scratchCap
      let sL := downsample s.params.stop q4 (div64 q5 e.hostRate 0x40D7700000000000#64) cap e.downL aL.1
      let sR := downsample s.params.stop q6 (div64 q5 e.hostRate 0x40D7700000000000#64) cap e.downR aR.1
      let o := delayRun q7 (fun k => drawsAt s.norand [k, s.free]) (min (max (24 * ms) 1) ((s.len : Int) - 1)) 0 e.line
        (sL.1.zip sR.1)
      let uL := upsample q8 (div64 q9 0x40D7700000000000#64 e.hostRate) a.n e.upL (o.1.map Prod.fst)
      let uR := upsample q10 (div64 q9 0x40D7700000000000#64 e.hostRate) a.n e.upR (o.1.map Prod.snd)
      let yL := filterRun q11 e.recL uL.1
      let yR := filterRun q12 e.recR uR.1
      s.blockOutput a ms e =
        ((yL.1, yR.1),
         { hostRate := e.hostRate, aaL := aL.2, aaR := aR.2, recL := yL.2, recR := yR.2,
           downL := sL.2, downR := sR.2, upL := uL.2, upR := uR.2, line := o.2 })) ∧
  (∀ (p : Site) (r : FilterRegs) (x : F32) (xs : List F32), ∃ q : Site,
    filterRun p r [] = ([], r) ∧
    filterRun p r (x :: xs) =
      ((filterStep q r x).1 :: (filterRun p (filterStep q r x).2 xs).1, (filterRun p (filterStep q r x).2 xs).2)) ∧
  (∀ (p : Site) (draws : Nat → Draws) (d : Int) (k : Nat) (l : DelayLine) (x y : F32) (xs : List (F32 × F32)),
    ∃ q : Site,
      let one := delayStep q (draws k) d l x y
      delayRun p draws d k l [] = ([], l) ∧
      delayRun p draws d k l ((x, y) :: xs) =
        (one.1 :: (delayRun p draws d (k + 1) one.2 xs).1, (delayRun p draws d (k + 1) one.2 xs).2)) ∧
  (∀ c : Nat, internalCap 4 0x40E7700000000000#64 c = min 3 c ∧ internalCap 512 0x40E7700000000000#64 c = min 257 c ∧
    internalCap 512 0x40E5888000000000#64 c = min 279 c ∧ internalCap 512 0x40D5888000000000#64 c = min 558 c ∧
    internalCap 1 0x40F7700000000000#64 c = min 1 c ∧ internalCap 0 0x40E7700000000000#64 c = min 1 c)

/-- 42 R170-R178: DLY_STEP completes while prepared: the results are the delay step's, the inputs stand in the buffers
at the old cursor, the cursor has advanced by one modulo LEN, and only units 4 to 7 have moved, their A and TYPE kept. -/
def Obligations.DlyStepCompletes : Prop :=
  ∀ (s : State) (x y d : Reg64), s.accepts .dlyStep → s.sessionOk = true → 0 < s.len →
    s.argIs 0 x → s.argIs 1 y → s.argIs 2 d →
    ∃ t l w, exec .dlyStep s = .next t ∧ s.delayLine = .ok l ∧ s.writePos = some w ∧
      (let o := delayStep [s.free] (drawsAt s.norand [s.free]) (lowHalf d).toInt l (lowHalf x) (lowHalf y)
       t.p0 = { s.p0 with res0 := some (o.1.1.setWidth 64), res1 := some (o.1.2.setWidth 64) } ∧
       t.delayLine = .ok o.2) ∧
      t.writePos = some ((w + 1) % s.len) ∧
      t.bufL = cellsSet s.bufL w (lowHalf x) ∧ t.bufR = cellsSet s.bufR w (lowHalf y) ∧
      (∀ f : Fin 8, t.filters[f].a = s.filters[f].a ∧ t.filters[f].kind = s.filters[f].kind) ∧
      (∀ f : Fin 8, f.val < 4 → t.filters[f] = s.filters[f]) ∧
      t = { s with p0 := t.p0, writePos := t.writePos, bufL := t.bufL, bufR := t.bufR, filters := t.filters,
                   free := t.free }

/-- 42 R170, R172-R177: the delay step is the spec's chain: crosstalk of the two delayed samples, both from pre-crosstalk
values, high-pass, low-pass, Quantize with two draws, and noise added after quantization. It leaves each of the four filters
with the registers that filter's own step leaves, the inputs in the buffers at the old cursor, and the cursor one further.
FilterStep is 40 R131's: the output of the unit's type, kept as Y_PREV, the input kept as X_PREV. Quantize is R175's tree of
operations, here with its values on the inputs of 95 V-Q1. -/
def Obligations.DelayStepFollowsTheChain : Prop :=
  (∀ (p : Site) (dr : Draws) (d : Int) (l : DelayLine) (inL inR : F32),
    ∃ q0 q1 q2 q3 q4 q5 q6 q7 q8 q9 q10 q11 q12 q13 : Site,
      let bufL := cellsSet l.bufL l.writePos inL
      let bufR := cellsSet l.bufR l.writePos inR
      let dlyL := cellsGet bufL (readPos l.writePos d l.len)
      let dlyR := cellsGet bufR (readPos l.writePos d l.len)
      let xL := add32 q0 dlyL (mul32 q1 0x3C23D70A#32 dlyR)
      let xR := add32 q2 dlyR (mul32 q3 0x3C23D70A#32 dlyL)
      let hL := filterStep q4 l.hpL xL
      let lL := filterStep q5 l.lpL hL.1
      let hR := filterStep q6 l.hpR xR
      let lR := filterStep q7 l.lpR hR.1
      delayStep p dr d l inL inR =
        ((add32 q8 (quantize q9 lL.1 dr.dL1 dr.dL2) (mul32 q10 dr.nL 0x38D1B717#32),
          add32 q11 (quantize q12 lR.1 dr.dR1 dr.dR2) (mul32 q13 dr.nR 0x38D1B717#32)),
         { len := l.len, writePos := (l.writePos + 1) % l.len, bufL := bufL, bufR := bufR,
           hpL := hL.2, lpL := lL.2, hpR := hR.2, lpR := lR.2 })) ∧
  (∀ (p : Site) (r : FilterRegs) (x : F32), ∃ q0 q1 q2 q3 q4 q5 : Site,
    let y := match r.kind with
      | .lp => add32 q0 (mul32 q1 (sub32 q2 0x3F800000#32 r.a) x) (mul32 q3 r.a r.yPrev)
      | .hp => mul32 q3 r.a (sub32 q4 (add32 q5 r.yPrev x) r.xPrev)
    filterStep p r x = (y, { a := r.a, kind := r.kind, yPrev := y, xPrev := x })) ∧
  (∀ (p : Site) (x u1 u2 : F32), ∃ q0 q1 q2 q3 q4 q5 q6 : Site,
    quantize p x u1 u2 =
      div32 q0 (floor32 q1 (add32 q2 (mul32 q3 (add32 q4 x (mul32 q5 (add32 q6 u1 u2) 0x39000000#32)) 0x45800000#32)
        0x3F000000#32)) 0x45800000#32) ∧
  (quantize [] 0x3DCCCCCD#32 0#32 0#32 = 0x3DCD0000#32 ∧ quantize [] 0xBDCCCCCD#32 0#32 0#32 = 0xBDCD0000#32 ∧
    quantize [] 0x39000000#32 0#32 0#32 = 0x39800000#32 ∧ quantize [] 0xB9000000#32 0#32 0#32 = 0#32 ∧
    quantize [] 0x3FC00000#32 0#32 0#32 = 0x3FC00000#32 ∧ quantize [] 0x3EAAAAAB#32 0#32 0#32 = 0x3EAAA000#32)

/-- 42 R171: the read position is `(WRITE_POS - d) mod LEN`, in `[0, LEN)` for every `d`; a multiple of LEN reads the
word about to be written. -/
def Obligations.ReadPositionIsInRange : Prop :=
  ∀ (w : Nat) (d : Int) (len : Nat), 0 < len →
    readPos w d len < len ∧ (len : Int) ∣ ((readPos w d len : Int) - ((w : Int) - d)) ∧
    (w < len → (len : Int) ∣ d → readPos w d len = w)

/-- 42 R171, R172, R177, R184, R270: the buffers are a delay line. After a run of delay steps the cursor has advanced by
their number modulo LEN, and the word `j` places back, for `j` up to LEN, is the input of the step `j` steps ago. -/
def Obligations.DelayLineDelays : Prop :=
  ∀ (p : Site) (draws : Nat → Draws) (d : Int) (k : Nat) (l : DelayLine) (xs : List (F32 × F32)),
    cellsWf l.bufL = true → cellsWf l.bufR = true → l.writePos < l.len →
    (delayRun p draws d k l xs).1.length = xs.length ∧
    (delayRun p draws d k l xs).2.len = l.len ∧
    (delayRun p draws d k l xs).2.writePos = (l.writePos + xs.length) % l.len ∧
    ∀ (j : Nat) (x : F32 × F32), 1 ≤ j → j ≤ l.len → j ≤ xs.length → xs[xs.length - j]? = some x →
      cellsGet (delayRun p draws d k l xs).2.bufL
        (readPos (delayRun p draws d k l xs).2.writePos j l.len) = x.1 ∧
      cellsGet (delayRun p draws d k l xs).2.bufR
        (readPos (delayRun p draws d k l xs).2.writePos j l.len) = x.2

/-- 42 R189, R171: the outputs of the delay line do not depend on where its cursor stands. Two lines whose filters agree,
and whose buffers hold the same word `j` places back from their own cursors for every `j`, give the same outputs on the
same inputs under the same draws, and stand in the same relation after. -/
def Obligations.DelayLineIsPositionFree : Prop :=
  ∀ (p : Site) (draws : Nat → Draws) (d : Int) (k : Nat) (l m : DelayLine) (xs : List (F32 × F32)),
    let same (a b : DelayLine) : Prop :=
      a.len = b.len ∧ a.hpL = b.hpL ∧ a.hpR = b.hpR ∧ a.lpL = b.lpL ∧ a.lpR = b.lpR ∧
      ∀ j : Nat, j < a.len →
        cellsGet a.bufL (readPos a.writePos j a.len) = cellsGet b.bufL (readPos b.writePos j b.len) ∧
        cellsGet a.bufR (readPos a.writePos j a.len) = cellsGet b.bufR (readPos b.writePos j b.len)
    cellsWf l.bufL = true → cellsWf l.bufR = true → cellsWf m.bufL = true → cellsWf m.bufR = true →
    l.writePos < l.len → m.writePos < m.len → same l m →
    (delayRun p draws d k l xs).1 = (delayRun p draws d k m xs).1 ∧
    same (delayRun p draws d k l xs).2 (delayRun p draws d k m xs).2

/-- 42 R182: the block's delay is `24 * delayMs` clamped to `[1, LEN - 1]`; the table's values, and when one is
unclamped. -/
def Obligations.DelayIsClamped : Prop :=
  (∀ (ms : Int) (len : Nat), 24 ≤ len →
    1 ≤ delaySamples ms len ∧ delaySamples ms len ≤ (len : Int) - 1 ∧
    (1 ≤ 24 * ms → 24 * ms ≤ (len : Int) - 1 → delaySamples ms len = 24 * ms) ∧
    (24 * ms < 1 → delaySamples ms len = 1) ∧
    ((len : Int) - 1 < 24 * ms → delaySamples ms len = (len : Int) - 1)) ∧
  (24 * delayTableMs 0 = 480 ∧ 24 * delayTableMs 1 = 960 ∧ 24 * delayTableMs 2 = 1920 ∧
    24 * delayTableMs 3 = 2880 ∧ 24 * delayTableMs 4 = 5280 ∧ 24 * delayTableMs 5 = 9600) ∧
  (∀ (i : Fin 6) (m : Nat), 1 ≤ m →
    (delaySamples (delayTableMs i) (24 * m) = 24 * delayTableMs i ↔ delayTableMs i < (m : Int)))

/-! ### The resampler -/

/-- 42 R186, 41 R151: the PHASE sequence of Downsample depends on its entry PHASE, the number of inputs, the cap and
the ratio, never on sample values: two channels with equal PHASE produce equally many samples and leave equal PHASE. -/
def Obligations.DownsampledChannelsStayAligned : Prop :=
  ∀ (stop : StopRule) (p q : Site) (ratio : F64) (room : Nat) (r r' : ResamplerRegs) (xs ys : List F32),
    isFinite64 ratio = true → isNan64 r.phase = false → r.phase = r'.phase → xs.length = ys.length →
    (downsample stop p ratio room r xs).1.length = (downsample stop q ratio room r' ys).1.length ∧
    (downsample stop p ratio room r xs).2.phase = (downsample stop q ratio room r' ys).2.phase

/-- 41 R151, R152, R156 (a): Downsample returns at most `maxOut` outputs under every DOWNSAMPLE_STOP value, and without
input changes nothing; Upsample always fills the requested length, and with no input it repeats LAST, which stays. -/
def Obligations.ResamplerOutputCounts : Prop :=
  (∀ (stop : StopRule) (p : Site) (ratio : F64) (maxOut : Nat) (r : ResamplerRegs) (xs : List F32),
    (downsample stop p ratio maxOut r xs).1.length ≤ maxOut ∧ downsample stop p ratio maxOut r [] = ([], r)) ∧
  (∀ (p : Site) (ratio : F64) (n : Nat) (r : ResamplerRegs) (xs : List F32),
    (upsample p ratio n r xs).1.length = n ∧ upsample p ratio 0 r xs = ([], r) ∧
    (upsample p ratio n r []).1 = List.replicate n r.last ∧ (upsample p ratio n r []).2.last = r.last)

/-- 41 R150, R151, R152, statement by statement of their pseudocode. LERP is R150's tree. Downsample: an input that finds
PHASE at 1.0 or above is consumed; below 1.0 and under the cap it emits one output and advances PHASE by the ratio; at the
cap RETURN_INNER returns, DRAIN consumes without output, BREAK_OUTER consumes the input that met the cap and then stops.
Upsample: each output interpolates towards the next pending input or holds LAST, then PHASE advances by the ratio and inputs
are consumed while it is 1.0 or above. -/
def Obligations.ResamplersFollowTheirLoops : Prop :=
  (∀ (p : Site) (last cur : F32) (ph : F64), ∃ q0 q1 q2 q3 q4 q5 : Site,
    lerp p last cur ph =
      cvt32 q0 (add64 q1 (cvt64 q2 last) (mul64 q3 (cvt64 q4 (sub32 q5 cur last)) ph))) ∧
  (∀ (stop : StopRule) (p : Site) (ratio : F64) (room : Nat) (r : ResamplerRegs) (x : F32) (xs : List F32),
    lt64 r.phase 0x3FF0000000000000#64 = false → (stop = .breakOuter → 0 < room) →
    ∃ q : Site, downsample stop p ratio room r (x :: xs) =
      downsample stop p ratio room { phase := sub64 q r.phase 0x3FF0000000000000#64, last := x } xs) ∧
  (∀ (stop : StopRule) (p : Site) (ratio : F64) (room : Nat) (r : ResamplerRegs) (x : F32) (xs : List F32),
    lt64 r.phase 0x3FF0000000000000#64 = true → (stop = .breakOuter → 0 < room) →
    ∃ q0 q1 : Site,
      let rest := downsample stop p ratio room { phase := add64 q1 r.phase ratio, last := r.last } (x :: xs)
      downsample stop p ratio (room + 1) r (x :: xs) = (lerp q0 r.last x r.phase :: rest.1, rest.2)) ∧
  (∀ (p : Site) (ratio : F64) (r : ResamplerRegs) (x : F32) (xs : List F32), lt64 r.phase 0x3FF0000000000000#64 = true →
    downsample .returnInner p ratio 0 r (x :: xs) = ([], r) ∧
    (∃ q : Site, downsample .drain p ratio 0 r (x :: xs) =
      downsample .drain p ratio 0 { phase := sub64 q r.phase 0x3FF0000000000000#64, last := x } xs) ∧
    (∃ q0 q1 q2 : Site, downsample .breakOuter p ratio 1 r (x :: xs) =
      ([lerp q0 r.last x r.phase], { phase := sub64 q1 (add64 q2 r.phase ratio) 0x3FF0000000000000#64, last := x }))) ∧
  (∀ (p : Site) (ratio : F64) (r : ResamplerRegs) (xs : List F32), downsample .breakOuter p ratio 0 r xs = ([], r)) ∧
  (∀ (p : Site) (ratio : F64) (k : Nat) (r : ResamplerRegs) (xs : List F32), ∃ q0 q1 q2 : Site,
    let c := consume q2 { phase := add64 q1 r.phase ratio, last := r.last } xs
    upsample p ratio (k + 1) r xs =
      ((match xs with
        | [] => r.last
        | x :: _ => lerp q0 r.last x r.phase) :: (upsample p ratio k c.2 c.1).1, (upsample p ratio k c.2 c.1).2)) ∧
  (∀ (p : Site) (r : ResamplerRegs) (x : F32) (xs : List F32), consume p r [] = ([], r) ∧
    (ge64 r.phase 0x3FF0000000000000#64 = false → consume p r (x :: xs) = (x :: xs, r)) ∧
    (ge64 r.phase 0x3FF0000000000000#64 = true → ∃ q : Site,
      consume p r (x :: xs) = consume p { phase := sub64 q r.phase 0x3FF0000000000000#64, last := x } xs))

/-- 41 R153: RS_DOWNSAMPLE with good operands on a written unit completes. The produced samples stand at the output
array, RES0 holds their number, and every byte past them or outside the array, and every other register, is kept. -/
def Obligations.RsDownsampleCompletes : Prop :=
  ∀ (s : State) (u : BitVec 4) (a : ResampleArgs) (inRate outRate : F64) (r : ResamplerRegs),
    s.accepts (.rsDownsample u) → s.canonical = true → s.resampleReady a inRate outRate →
    s.resamplers[resamplerIx u] = r.toUnit →
    ∃ t, exec (.rsDownsample u) s = .next t ∧
      (let o := downsample s.params.stop [s.free] a.ratio a.count r
                  (readArray s.params.byteOrder s.mem a.inBase a.n)
       readArray s.params.byteOrder t.mem a.outBase o.1.length = o.1 ∧
       t.p0 = { s.p0 with res0 := some (BitVec.ofInt 64 o.1.length) } ∧
       t.resamplers = s.resamplers.set (resamplerIx u) o.2.toUnit ∧
       (∀ b, inArray a.outBase o.1.length b = false → t.byteAt b = s.byteAt b)) ∧
      t = { s with mem := t.mem, p0 := t.p0, resamplers := t.resamplers, free := t.free }

/-- 41 R154: RS_UPSAMPLE, likewise; the output array is filled whole and RES0 holds the requested count. -/
def Obligations.RsUpsampleCompletes : Prop :=
  ∀ (s : State) (u : BitVec 4) (a : ResampleArgs) (inRate outRate : F64) (r : ResamplerRegs),
    s.accepts (.rsUpsample u) → s.canonical = true → s.resampleReady a inRate outRate →
    s.resamplers[resamplerIx u] = r.toUnit →
    ∃ t, exec (.rsUpsample u) s = .next t ∧
      (let o := upsample [s.free] a.ratio a.count r (readArray s.params.byteOrder s.mem a.inBase a.n)
       readArray s.params.byteOrder t.mem a.outBase a.count = o.1 ∧
       t.p0 = { s.p0 with res0 := some (BitVec.ofInt 64 a.count) } ∧
       t.resamplers = s.resamplers.set (resamplerIx u) o.2.toUnit ∧
       (∀ b, inArray a.outBase a.count b = false → t.byteAt b = s.byteAt b)) ∧
      t = { s with mem := t.mem, p0 := t.p0, resamplers := t.resamplers, free := t.free }

/-- 40 R134, 41 R155: FLT_RESET clears a unit's history and keeps its A and TYPE, written or not; RS_RESET sets PHASE
and LAST to +0.0; nothing else changes. -/
def Obligations.UnitResetsComplete : Prop :=
  (∀ (s : State) (u : BitVec 4), s.accepts (.fltReset u) →
    exec (.fltReset u) s = .next { s with
      filters := s.filters.set (filterIx u)
        { s.filters[filterIx u] with yPrev := some 0#32, xPrev := some 0#32 } }) ∧
  (∀ (s : State) (u : BitVec 4), s.accepts (.rsReset u) →
    exec (.rsReset u) s = .next { s with
      resamplers := s.resamplers.set (resamplerIx u) { phase := some 0#64, last := some 0#32 } })

/-! ### The filter -/

/-- 40 R132, R130: FLT_SETCOEF inside its precondition sets A and TYPE of its unit and nothing else; the unit's history
stays. The coefficient is COEF_FN's, in `(0.0, 1.0]`, and 1.0 when `fc` is a zero of either sign; the decided default of
COEF_FN has the values of 95 V-F1. -/
def Obligations.FltSetcoefCompletes : Prop :=
  (∀ (s : State) (u : BitVec 4) (k : FilterType) (fs fc : Reg64), s.accepts (.fltSetcoef u k) →
    s.argIs 0 fs → s.argIs 1 fc → isFinite64 fs = true → gt64 fs 0#64 = true → isFinite64 fc = true →
    lt64 fc 0#64 = false → lt64 fc (div64 [] fs 0x4000000000000000#64) = true →
    exec (.fltSetcoef u k) s = .next { s with
      filters := s.filters.set (filterIx u)
        { s.filters[filterIx u] with a := some (coefFn s.params.coef fs fc), kind := some k } } ∧
    gt32 (coefFn s.params.coef fs fc) 0#32 = true ∧ ge32 0x3F800000#32 (coefFn s.params.coef fs fc) = true ∧
    (fc = 0#64 ∨ fc = 0x8000000000000000#64 → coefFn s.params.coef fs fc = 0x3F800000#32)) ∧
  (coefFn .rounded 0x40D5888000000000#64 0x40C3880000000000#64 = 0x3D6D0B76#32 ∧
    coefFn .rounded 0x40DF400000000000#64 0x40C3880000000000#64 = 0x3E0FBC59#32 ∧
    coefFn .rounded 0x40E5888000000000#64 0x40C3880000000000#64 = 0x3E765713#32 ∧
    coefFn .rounded 0x40E7700000000000#64 0x40C3880000000000#64 = 0x3E8A4959#32 ∧
    coefFn .rounded 0x40F5888000000000#64 0x40C3880000000000#64 = 0x3EFB1FA6#32 ∧
    coefFn .rounded 0x40F7700000000000#64 0x40C3880000000000#64 = 0x3F050B3C#32 ∧
    coefFn .rounded 0x4107700000000000#64 0x40C3880000000000#64 = 0x3F388D2B#32 ∧
    coefFn .rounded 0x40D7700000000000#64 0x4054000000000000#64 = 0x3F7AB1B1#32 ∧
    coefFn .rounded 0x40D7700000000000#64 0x40C1940000000000#64 = 0x3DC21C22#32)

/-- 40 R131, R133: FLT_PROCESS on a written unit returns the difference equation's value in RES0, keeps it as Y_PREV and
the input as X_PREV, for both types, and changes nothing else. -/
def Obligations.FltProcessCompletes : Prop :=
  ∀ (s : State) (u : BitVec 4) (v : Reg64) (r : FilterRegs), s.accepts (.fltProcess u) → s.argIs 0 v →
    s.filters[filterIx u] = r.toUnit →
    let x := lowHalf v
    let y := match r.kind with
      | .lp => add32 [3, s.free] (mul32 [1, s.free] (sub32 [0, s.free] 0x3F800000#32 r.a) x) (mul32 [2, s.free] r.a r.yPrev)
      | .hp => mul32 [2, s.free] r.a (sub32 [1, s.free] (add32 [0, s.free] r.yPrev x) r.xPrev)
    exec (.fltProcess u) s = .next { s with
      filters := s.filters.set (filterIx u)
        { a := some r.a, kind := some r.kind, yPrev := some y, xPrev := some x }
      p0 := { s.p0 with res0 := some (y.setWidth 64) }
      free := s.free + 1 }

/-- 40 R133, 70 R273: a NaN input makes the output NaN, and once Y_PREV is NaN every later output is NaN, for both
types. -/
def Obligations.NanPoisonsFilter : Prop :=
  (∀ (p : Site) (r : FilterRegs) (x : F32), isNan32 x = true →
    isNan32 (filterStep p r x).1 = true ∧ isNan32 (filterStep p r x).2.yPrev = true) ∧
  (∀ (p : Site) (r : FilterRegs) (xs : List F32), isNan32 r.yPrev = true →
    ∀ y ∈ (filterRun p r xs).1, isNan32 y = true)

/-! ### The peak meter -/

/-- 43 R200, R201: PEAK_UPDATE attacks at once when the sample's magnitude is greater, else decays by 0.9995; it changes no
other channel and nothing else. 43 R202: PEAK_READ returns the channel's value in RES0 of the port it was issued on, and
changes nothing else. -/
def Obligations.PeakCommandsComplete : Prop :=
  (∀ (s : State) (u : BitVec 4) (v : Reg64), s.accepts (.peakUpdate u) → s.argIs 0 v →
    exec (.peakUpdate u) s = .next { s with
      peaks := s.peaks.set (peakIx u)
        (if gt32 (abs32 (lowHalf v)) s.peaks[peakIx u] = true then abs32 (lowHalf v)
         else mul32 [s.free] s.peaks[peakIx u] 0x3F7FDF3B#32)
      free := s.free + 1 }) ∧
  (∀ (s : State) (u : BitVec 4), s.accepts (.peakRead u) →
    exec (.peakRead u) s = .next (s.setPort s.active
      { s.port s.active with res0 := some (s.peaks[peakIx u].setWidth 64) }))

/-- 43 R203 (a): no step makes a peak register negative or NaN. -/
def Obligations.PeaksStayNonNegative : Prop :=
  ∀ (s t : State), paramsAdmitted s.params = true → s.peaksOk = true → step s = .next t → t.peaksOk = true

/-- 43 R203 (b): a peak register never rises but by an attack: the decay of a value that is not negative is not above
it. -/
def Obligations.PeakDecayNeverRises : Prop :=
  ∀ (p : Site) (pk x : F32), ge32 pk 0#32 = true → gt32 (abs32 x) pk = false →
    ge32 pk (peakNext p pk x) = true

/-! ### Control registers -/

/-- 44 R212, R213: DIDX_WRITE of 0..5 holds the value, on either port and even in a dead session on P1; DIDX_READ returns
it sign-extended; nothing else changes. 44 R215, 10 R38: TESTCTL_WRITE of 0 or 1 holds the value and changes nothing else,
and 1 sets NORAND. -/
def Obligations.ControlRegisterCommandsComplete : Prop :=
  (∀ (s : State) (v : Reg64) (i : Fin 6), s.accepts .didxWrite → s.argIs 0 v → (lowHalf v).toInt = (i.val : Int) →
    exec .didxWrite s = .next { s with delayIndex := some i }) ∧
  (∀ (s : State) (i : Fin 6), s.accepts .didxRead → s.delayIndex = some i →
    exec .didxRead s = .next (s.setPort s.active
      { s.port s.active with res0 := some (BitVec.ofNat 64 i.val) })) ∧
  (∀ (s : State) (v : Reg64), s.accepts .testctlWrite → s.argIs 0 v → (lowHalf v).toNat ≤ 1 →
    exec .testctlWrite s = .next { s with testctl := lowHalf v } ∧
    ((lowHalf v = 1#32) ↔ ({ s with testctl := lowHalf v } : State).norand = true))

/-- 44 R214, 10 R35: STATUS_READ returns STATUS zero-extended in RES0 and changes nothing else; bit 0 is `LEN > 0`, bit 1
FAULT, bits 7:4 the cause code or 0, every other bit 0. -/
def Obligations.StatusReadCompletes : Prop :=
  ∀ (s : State), s.accepts .statusRead →
    exec .statusRead s = .next (s.setPort s.active
      { s.port s.active with res0 := some (s.statusWord.setWidth 64) }) ∧
    (s.statusWord.getLsbD 0 = true ↔ 0 < s.len) ∧
    (s.statusWord.getLsbD 1 = true ↔ s.fault ≠ none) ∧
    s.statusWord.extractLsb' 2 2 = 0#2 ∧ s.statusWord.extractLsb' 8 24 = 0#24 ∧
    s.statusWord.extractLsb' 4 4 =
      (match s.fault with
       | none => 0#4
       | some .illegal => 1#4
       | some .memory => 2#4
       | some .precondition => 3#4
       | some .uninit => 4#4
       | some .alloc => 5#4)

/-- 00 R21, 10 R38: every draw is in `[-1.0, 1.0]`; under NORAND every draw is +0.0, and the dither and noise terms are
+0.0. -/
def Obligations.DrawsStayInRangeAndNorandSilencesThem : Prop :=
  (∀ (norand : Bool) (p : Site), ge32 (draw norand p) 0xBF800000#32 = true ∧ ge32 0x3F800000#32 (draw norand p) = true) ∧
  (∀ (p q : Site), draw true p = 0#32 ∧
    drawsAt true p = { dL1 := 0#32, dL2 := 0#32, nL := 0#32, dR1 := 0#32, dR2 := 0#32, nR := 0#32 } ∧
    mul32 p (add32 q (draw true p) (draw true q)) 0x39000000#32 = 0#32 ∧
    mul32 p (draw true q) 0x38D1B717#32 = 0#32)

/-! ### AUDIO_BLOCK -/

/-- 44 R211, 20 R85: AUDIO_BLOCK with good operands starts: S0 takes the snapshot of DELAY_INDEX, the next sub-step is
the first input meter, or S2 when N = 0, and nothing else changes. -/
def Obligations.AudioBlockStarts : Prop :=
  ∀ (s : State) (a : StereoArrays) (i : Fin 6), s.accepts .audioBlock → s.block = none → s.stereoReady a →
    s.delayIndex = some i →
    exec .audioBlock s = .next { s with
      block := some { inL := a.inL, inR := a.inR, outL := a.outL, outR := a.outR, n := a.n, idx := i
                      stage := if 0 < a.n then .meterIn 0 .left else .process } }

/-- 44 R211, 43 R204: the meter sub-steps. S1[i] meters element i of an input array, S3[i] of an output array, left
before right, on channels 0, 1 and 2, 3; nothing else changes but the sub-step to come. There is no premise on STATUS: that
a block goes on while FAULT = 1, set by a P1 command meanwhile, is the model's choice (log entry 10, DEDUCED from 60 R239). -/
def Obligations.AudioBlockMeters : Prop :=
  ∀ (s : State) (b : Block) (i : Nat), s.active = .p0 → s.block = some b →
    (b.stage = .meterIn i .left →
      exec .audioBlock s = .next { s with
        peaks := s.peaks.set 0 (peakNext [s.free] s.peaks[0] (memRead s.params.byteOrder s.mem (b.inL + 4 * i)))
        free := s.free + 1
        block := some { b with stage := .meterIn i .right } }) ∧
    (b.stage = .meterIn i .right →
      exec .audioBlock s = .next { s with
        peaks := s.peaks.set 1 (peakNext [s.free] s.peaks[1] (memRead s.params.byteOrder s.mem (b.inR + 4 * i)))
        free := s.free + 1
        block := some { b with stage := if i + 1 < b.n then .meterIn (i + 1) .left else .process } }) ∧
    (b.stage = .meterOut i .left →
      exec .audioBlock s = .next { s with
        peaks := s.peaks.set 2 (peakNext [s.free] s.peaks[2] (memRead s.params.byteOrder s.mem (b.outL + 4 * i)))
        free := s.free + 1
        block := some { b with stage := .meterOut i .right } }) ∧
    (b.stage = .meterOut i .right →
      exec .audioBlock s = .next { s with
        peaks := s.peaks.set 3 (peakNext [s.free] s.peaks[3] (memRead s.params.byteOrder s.mem (b.outR + 4 * i)))
        free := s.free + 1
        block := if i + 1 < b.n then some { b with stage := .meterOut (i + 1) .left } else none })

/-- 44 R211, R210, 42 R181: sub-step S2 does what PROCESS_STEREO does with `DELAY_TABLE_MS[idx]`, or nothing while
LEN = 0; then the first output meter comes, or the block ends when N = 0. There is no premise on STATUS: that S2 is done
while FAULT = 1, set by a P1 command meanwhile, is the model's choice (log entry 10, DEDUCED from 60 R239). -/
def Obligations.AudioBlockProcesses : Prop :=
  ∀ (s : State) (b : Block), s.active = .p0 → s.block = some b → b.stage = .process → s.sessionOk = true →
    (s.len = 0 → exec .audioBlock s = .next { s with
      block := if 0 < b.n then some { b with stage := .meterOut 0 .left } else none }) ∧
    (0 < s.len → ∃ t e, exec .audioBlock s = .next t ∧ s.engine = .ok e ∧
      t.engine = .ok (s.blockOutput b.arrays (delayTableMs b.idx) e).2 ∧
      t.mem = writeStereo s.params.byteOrder s.mem b.outL b.outR
        ((s.blockOutput b.arrays (delayTableMs b.idx) e).1.1.zip
          (s.blockOutput b.arrays (delayTableMs b.idx) e).1.2) ∧
      (∀ x, inArray b.outL b.n x = false → inArray b.outR b.n x = false → t.byteAt x = s.byteAt x) ∧
      t = { s with mem := t.mem, filters := t.filters, resamplers := t.resamplers, bufL := t.bufL, bufR := t.bufR,
                   writePos := t.writePos, free := t.free,
                   block := if 0 < b.n then some { b with stage := .meterOut 0 .left } else none })

/-- 44 R211, 70 R276: with P1 silent, an AUDIO_BLOCK of N samples is done after exactly 4N + 2 sub-steps.
That a block is carried out through `State.block`, one sub-step at a time, is the model's choice (log entry 10). -/
def Obligations.AudioBlockEndsAfterItsSubSteps : Prop :=
  ∀ (s : State) (a : StereoArrays) (i : Fin 6), s.accepts .audioBlock → s.block = none → s.sessionOk = true →
    s.stereoReady a → s.delayIndex = some i →
    (audioRun (4 * a.n + 2) s).block = none ∧
    (∀ k, 1 ≤ k → k ≤ 4 * a.n + 1 → (audioRun k s).block ≠ none) ∧
    (audioRun (4 * a.n + 2) s).faultLog = s.faultLog

/-! ### Whole-machine rules -/

/-- 60 R247, 20 R84, R85: a command on P1 reaches only PEAK (read), DELAY_INDEX, STATUS and its own RES registers; a
block in progress on P0, its snapshot of the index included, is untouched. That it stays when the P1 command takes a fault
is the model's choice (log entry 10, DEDUCED from 60 R239). -/
def Obligations.ControlPortReachesOnlySharedState : Prop :=
  ∀ (i : Instr) (s t : State), s.active = .p1 → exec i s = .next t →
    t = { s with p1 := { s.p1 with res0 := t.p1.res0 }, fault := t.fault, delayIndex := t.delayIndex,
                 faultLog := t.faultLog }

/-- 10 R53, 20 R70: only PROCESS_STEREO, AUDIO_BLOCK, RS_DOWNSAMPLE and RS_UPSAMPLE write host memory. 10 R40, R41: LEN and
HOST_RATE never change but by PREPARE. -/
def Obligations.OnlyTheirCommandsWriteMemoryAndSession : Prop :=
  (∀ (i : Instr) (s t : State), i ≠ .processStereo → i ≠ .audioBlock → (∀ u, i ≠ .rsDownsample u) →
    (∀ u, i ≠ .rsUpsample u) → exec i s = .next t → t.mem = s.mem) ∧
  (∀ (i : Instr) (s t : State), i ≠ .prepare → exec i s = .next t → t.len = s.len ∧ t.hostRate = s.hostRate)

/-- The memory discipline: every step keeps host memory and both delay RAMs in canonical form. -/
def Obligations.MemoryStaysCanonical : Prop :=
  ∀ (s t : State), s.canonical = true → step s = .next t → t.canonical = true

/-- 10 R52, R41, R42, 42 R179: every step keeps the session's invariant: LEN within the RAM and, while LEN > 0, LEN at
least 24, `0 <= WRITE_POS < LEN`, and HOST_RATE, every filter and every resampler written. -/
def Obligations.SessionInvariantIsKept : Prop :=
  ∀ (s t : State), s.sessionOk = true → step s = .next t → t.sessionOk = true

/-- 44 R211, 70 R266: every step keeps a block in progress tied to an AUDIO_BLOCK in P0's CMD, at a sub-step that exists
for its N. -/
def Obligations.BlockInProgressStaysLegal : Prop :=
  ∀ (s t : State), s.blockOk = true → step s = .next t → t.blockOk = true

/-- 10 R37, 40 R130, R135: every step keeps TESTCTL bits 31:1 at 0 and every written coefficient in `(0.0, 1.0]`. -/
def Obligations.ReservedBitsAndCoefficientsStayLegal : Prop :=
  ∀ (s t : State), s.testctlOk = true → s.coefsOk = true → step s = .next t →
    t.testctlOk = true ∧ t.coefsOk = true

/-- 10 R54: the power-on value of every piece of state the rule lists, for whatever PEAK_INIT the machine has. -/
def Obligations.PowerOnState : Prop :=
  State.reset.len = 0 ∧ State.reset.hostRate = none ∧ State.reset.writePos = none ∧
  (∀ k, k < State.reset.len → False) ∧
  (∀ f : Fin 8, State.reset.filters[f] = { a := none, kind := none, yPrev := none, xPrev := none }) ∧
  (∀ r : Fin 4, State.reset.resamplers[r] = { phase := none, last := none }) ∧
  (∀ c : Fin 4, State.reset.peaks[c] = State.reset.params.peakInit[c]) ∧
  State.reset.delayIndex = none ∧ State.reset.testctl = 0#32 ∧ State.reset.statusWord = 0#32 ∧
  (∀ (p : Port) (k : Fin 8), (State.reset.port p).args[k] = none) ∧
  (∀ p : Port, (State.reset.port p).res0 = none ∧ (State.reset.port p).res1 = none)

/-- 60 R249, 70 R260 (a), 10 R54, 60 R238: a power cycle sets every register of the CORE to its power-on value, ends every
command and any block in progress, and empties FAULT_LOG, whatever the state. That host memory, the host's further acts and
the names of free values stay is the model's choice (log entry 15). LEN is 0, so no buffer word is live, and the statement
says nothing of their contents (70 R262). -/
def Obligations.PowerCycleRestoresPowerOn : Prop :=
  ∀ (s : State) (rest : List HostEvent), s.inputs = .powerCycle :: rest →
    ∃ t, step s = .next t ∧ t.len = 0 ∧ t.hostRate = none ∧ t.writePos = none ∧
      (∀ f : Fin 8, t.filters[f] = { a := none, kind := none, yPrev := none, xPrev := none }) ∧
      (∀ r : Fin 4, t.resamplers[r] = { phase := none, last := none }) ∧
      (∀ c : Fin 4, t.peaks[c] = s.params.peakInit[c]) ∧
      t.delayIndex = none ∧ t.testctl = 0#32 ∧ t.statusWord = 0#32 ∧
      (∀ (p : Port) (k : Fin 8), (t.port p).args[k] = none) ∧
      (∀ p : Port, (t.port p).cmd = none ∧ (t.port p).res0 = none ∧ (t.port p).res1 = none) ∧
      t.block = none ∧ t.faultLog = [] ∧ t.params = s.params ∧
      t.mem = s.mem ∧ t.inputs = rest ∧ t.free = s.free

/-- The invariants hold at power-on, with admitted parameters and a clean log (00 R9, R10, R14, 10 R54, 60 R238). -/
def Obligations.PowerOnMeetsTheInvariants : Prop :=
  State.reset.canonical = true ∧ State.reset.sessionOk = true ∧ State.reset.peaksOk = true ∧
  State.reset.testctlOk = true ∧ State.reset.coefsOk = true ∧ State.reset.blockOk = true ∧
  paramsAdmitted State.reset.params = true ∧ State.reset.clean = true

/-- 20 R73: MemRead after MemWrite gives the value in either byte order; with `little` the byte at `addr` is bits 7:0,
with `big` it is bits 31:24, and so on upward; no byte outside the element changes. -/
def Obligations.ElementsReadBackInByteOrder : Prop :=
  ∀ (o : ByteOrder) (m : List Host.Cell) (addr : Nat) (v : F32), Memory.wf m = true →
    memRead o (memWrite o m addr v) addr = v ∧
    (∀ j : Nat, j < 4 → cellsGet (memWrite .little m addr v) (addr + j) = v.extractLsb' (8 * j) 8) ∧
    (∀ j : Nat, j < 4 → cellsGet (memWrite .big m addr v) (addr + j) = v.extractLsb' (24 - 8 * j) 8) ∧
    (∀ b, (b < addr ∨ addr + 4 ≤ b) → cellsGet (memWrite o m addr v) b = cellsGet m b)
end

