-- ==== Sys2Proof/Laws/State.lean ====
section
/-!
SUPPORT. One lemma per field per update of the state: what each named update does to each field, so that no proof
unfolds a record update.
-/

namespace Sys2Proof.Machine.State

section setPort

variable (s : State) (p : Port) (r : PortRegs)

@[simp] theorem setPort_params : (s.setPort p r).params = s.params := by cases p <;> rfl
@[simp] theorem setPort_fault : (s.setPort p r).fault = s.fault := by cases p <;> rfl
@[simp] theorem setPort_delayIndex : (s.setPort p r).delayIndex = s.delayIndex := by cases p <;> rfl
@[simp] theorem setPort_testctl : (s.setPort p r).testctl = s.testctl := by cases p <;> rfl
@[simp] theorem setPort_hostRate : (s.setPort p r).hostRate = s.hostRate := by cases p <;> rfl
@[simp] theorem setPort_len : (s.setPort p r).len = s.len := by cases p <;> rfl
@[simp] theorem setPort_writePos : (s.setPort p r).writePos = s.writePos := by cases p <;> rfl
@[simp] theorem setPort_filters : (s.setPort p r).filters = s.filters := by cases p <;> rfl
@[simp] theorem setPort_resamplers : (s.setPort p r).resamplers = s.resamplers := by cases p <;> rfl
@[simp] theorem setPort_bufL : (s.setPort p r).bufL = s.bufL := by cases p <;> rfl
@[simp] theorem setPort_bufR : (s.setPort p r).bufR = s.bufR := by cases p <;> rfl
@[simp] theorem setPort_peaks : (s.setPort p r).peaks = s.peaks := by cases p <;> rfl
@[simp] theorem setPort_block : (s.setPort p r).block = s.block := by cases p <;> rfl
@[simp] theorem setPort_mem : (s.setPort p r).mem = s.mem := by cases p <;> rfl
@[simp] theorem setPort_faultLog : (s.setPort p r).faultLog = s.faultLog := by cases p <;> rfl
@[simp] theorem setPort_inputs : (s.setPort p r).inputs = s.inputs := by cases p <;> rfl
@[simp] theorem setPort_active : (s.setPort p r).active = s.active := by cases p <;> rfl
@[simp] theorem setPort_free : (s.setPort p r).free = s.free := by cases p <;> rfl

end setPort

section setRes0

variable (s : State) (v : Reg64)

@[simp] theorem setRes0_params : (s.setRes0 v).params = s.params := setPort_params _ _ _
@[simp] theorem setRes0_fault : (s.setRes0 v).fault = s.fault := setPort_fault _ _ _
@[simp] theorem setRes0_delayIndex : (s.setRes0 v).delayIndex = s.delayIndex := setPort_delayIndex _ _ _
@[simp] theorem setRes0_testctl : (s.setRes0 v).testctl = s.testctl := setPort_testctl _ _ _
@[simp] theorem setRes0_hostRate : (s.setRes0 v).hostRate = s.hostRate := setPort_hostRate _ _ _
@[simp] theorem setRes0_len : (s.setRes0 v).len = s.len := setPort_len _ _ _
@[simp] theorem setRes0_writePos : (s.setRes0 v).writePos = s.writePos := setPort_writePos _ _ _
@[simp] theorem setRes0_filters : (s.setRes0 v).filters = s.filters := setPort_filters _ _ _
@[simp] theorem setRes0_resamplers : (s.setRes0 v).resamplers = s.resamplers := setPort_resamplers _ _ _
@[simp] theorem setRes0_bufL : (s.setRes0 v).bufL = s.bufL := setPort_bufL _ _ _
@[simp] theorem setRes0_bufR : (s.setRes0 v).bufR = s.bufR := setPort_bufR _ _ _
@[simp] theorem setRes0_peaks : (s.setRes0 v).peaks = s.peaks := setPort_peaks _ _ _
@[simp] theorem setRes0_block : (s.setRes0 v).block = s.block := setPort_block _ _ _
@[simp] theorem setRes0_mem : (s.setRes0 v).mem = s.mem := setPort_mem _ _ _
@[simp] theorem setRes0_faultLog : (s.setRes0 v).faultLog = s.faultLog := setPort_faultLog _ _ _
@[simp] theorem setRes0_inputs : (s.setRes0 v).inputs = s.inputs := setPort_inputs _ _ _
@[simp] theorem setRes0_active : (s.setRes0 v).active = s.active := setPort_active _ _ _
@[simp] theorem setRes0_free : (s.setRes0 v).free = s.free := setPort_free _ _ _

end setRes0

section setRes1

variable (s : State) (v : Reg64)

@[simp] theorem setRes1_params : (s.setRes1 v).params = s.params := setPort_params _ _ _
@[simp] theorem setRes1_fault : (s.setRes1 v).fault = s.fault := setPort_fault _ _ _
@[simp] theorem setRes1_delayIndex : (s.setRes1 v).delayIndex = s.delayIndex := setPort_delayIndex _ _ _
@[simp] theorem setRes1_testctl : (s.setRes1 v).testctl = s.testctl := setPort_testctl _ _ _
@[simp] theorem setRes1_hostRate : (s.setRes1 v).hostRate = s.hostRate := setPort_hostRate _ _ _
@[simp] theorem setRes1_len : (s.setRes1 v).len = s.len := setPort_len _ _ _
@[simp] theorem setRes1_writePos : (s.setRes1 v).writePos = s.writePos := setPort_writePos _ _ _
@[simp] theorem setRes1_filters : (s.setRes1 v).filters = s.filters := setPort_filters _ _ _
@[simp] theorem setRes1_resamplers : (s.setRes1 v).resamplers = s.resamplers := setPort_resamplers _ _ _
@[simp] theorem setRes1_bufL : (s.setRes1 v).bufL = s.bufL := setPort_bufL _ _ _
@[simp] theorem setRes1_bufR : (s.setRes1 v).bufR = s.bufR := setPort_bufR _ _ _
@[simp] theorem setRes1_peaks : (s.setRes1 v).peaks = s.peaks := setPort_peaks _ _ _
@[simp] theorem setRes1_block : (s.setRes1 v).block = s.block := setPort_block _ _ _
@[simp] theorem setRes1_mem : (s.setRes1 v).mem = s.mem := setPort_mem _ _ _
@[simp] theorem setRes1_faultLog : (s.setRes1 v).faultLog = s.faultLog := setPort_faultLog _ _ _
@[simp] theorem setRes1_inputs : (s.setRes1 v).inputs = s.inputs := setPort_inputs _ _ _
@[simp] theorem setRes1_active : (s.setRes1 v).active = s.active := setPort_active _ _ _
@[simp] theorem setRes1_free : (s.setRes1 v).free = s.free := setPort_free _ _ _

end setRes1

section dropCommand

variable (s : State) (p : Port)

@[simp] theorem dropCommand_params : (s.dropCommand p).params = s.params := setPort_params _ _ _
@[simp] theorem dropCommand_fault : (s.dropCommand p).fault = s.fault := setPort_fault _ _ _
@[simp] theorem dropCommand_delayIndex : (s.dropCommand p).delayIndex = s.delayIndex := setPort_delayIndex _ _ _
@[simp] theorem dropCommand_testctl : (s.dropCommand p).testctl = s.testctl := setPort_testctl _ _ _
@[simp] theorem dropCommand_hostRate : (s.dropCommand p).hostRate = s.hostRate := setPort_hostRate _ _ _
@[simp] theorem dropCommand_len : (s.dropCommand p).len = s.len := setPort_len _ _ _
@[simp] theorem dropCommand_writePos : (s.dropCommand p).writePos = s.writePos := setPort_writePos _ _ _
@[simp] theorem dropCommand_filters : (s.dropCommand p).filters = s.filters := setPort_filters _ _ _
@[simp] theorem dropCommand_resamplers : (s.dropCommand p).resamplers = s.resamplers := setPort_resamplers _ _ _
@[simp] theorem dropCommand_bufL : (s.dropCommand p).bufL = s.bufL := setPort_bufL _ _ _
@[simp] theorem dropCommand_bufR : (s.dropCommand p).bufR = s.bufR := setPort_bufR _ _ _
@[simp] theorem dropCommand_peaks : (s.dropCommand p).peaks = s.peaks := setPort_peaks _ _ _
@[simp] theorem dropCommand_block : (s.dropCommand p).block = s.block := setPort_block _ _ _
@[simp] theorem dropCommand_mem : (s.dropCommand p).mem = s.mem := setPort_mem _ _ _
@[simp] theorem dropCommand_faultLog : (s.dropCommand p).faultLog = s.faultLog := setPort_faultLog _ _ _
@[simp] theorem dropCommand_inputs : (s.dropCommand p).inputs = s.inputs := setPort_inputs _ _ _
@[simp] theorem dropCommand_active : (s.dropCommand p).active = s.active := setPort_active _ _ _
@[simp] theorem dropCommand_free : (s.dropCommand p).free = s.free := setPort_free _ _ _

end dropCommand

section writeArg

variable (s : State) (p : Port) (k : Fin 8) (v : Reg64)

@[simp] theorem writeArg_params : (s.writeArg p k v).params = s.params := setPort_params _ _ _
@[simp] theorem writeArg_fault : (s.writeArg p k v).fault = s.fault := setPort_fault _ _ _
@[simp] theorem writeArg_delayIndex : (s.writeArg p k v).delayIndex = s.delayIndex := setPort_delayIndex _ _ _
@[simp] theorem writeArg_testctl : (s.writeArg p k v).testctl = s.testctl := setPort_testctl _ _ _
@[simp] theorem writeArg_hostRate : (s.writeArg p k v).hostRate = s.hostRate := setPort_hostRate _ _ _
@[simp] theorem writeArg_len : (s.writeArg p k v).len = s.len := setPort_len _ _ _
@[simp] theorem writeArg_writePos : (s.writeArg p k v).writePos = s.writePos := setPort_writePos _ _ _
@[simp] theorem writeArg_filters : (s.writeArg p k v).filters = s.filters := setPort_filters _ _ _
@[simp] theorem writeArg_resamplers : (s.writeArg p k v).resamplers = s.resamplers := setPort_resamplers _ _ _
@[simp] theorem writeArg_bufL : (s.writeArg p k v).bufL = s.bufL := setPort_bufL _ _ _
@[simp] theorem writeArg_bufR : (s.writeArg p k v).bufR = s.bufR := setPort_bufR _ _ _
@[simp] theorem writeArg_peaks : (s.writeArg p k v).peaks = s.peaks := setPort_peaks _ _ _
@[simp] theorem writeArg_block : (s.writeArg p k v).block = s.block := setPort_block _ _ _
@[simp] theorem writeArg_mem : (s.writeArg p k v).mem = s.mem := setPort_mem _ _ _
@[simp] theorem writeArg_faultLog : (s.writeArg p k v).faultLog = s.faultLog := setPort_faultLog _ _ _
@[simp] theorem writeArg_inputs : (s.writeArg p k v).inputs = s.inputs := setPort_inputs _ _ _
@[simp] theorem writeArg_active : (s.writeArg p k v).active = s.active := setPort_active _ _ _
@[simp] theorem writeArg_free : (s.writeArg p k v).free = s.free := setPort_free _ _ _

end writeArg

section writeCmd

variable (s : State) (p : Port) (w : Word)

@[simp] theorem writeCmd_params : (s.writeCmd p w).params = s.params := setPort_params _ _ _
@[simp] theorem writeCmd_fault : (s.writeCmd p w).fault = s.fault := setPort_fault _ _ _
@[simp] theorem writeCmd_delayIndex : (s.writeCmd p w).delayIndex = s.delayIndex := setPort_delayIndex _ _ _
@[simp] theorem writeCmd_testctl : (s.writeCmd p w).testctl = s.testctl := setPort_testctl _ _ _
@[simp] theorem writeCmd_hostRate : (s.writeCmd p w).hostRate = s.hostRate := setPort_hostRate _ _ _
@[simp] theorem writeCmd_len : (s.writeCmd p w).len = s.len := setPort_len _ _ _
@[simp] theorem writeCmd_writePos : (s.writeCmd p w).writePos = s.writePos := setPort_writePos _ _ _
@[simp] theorem writeCmd_filters : (s.writeCmd p w).filters = s.filters := setPort_filters _ _ _
@[simp] theorem writeCmd_resamplers : (s.writeCmd p w).resamplers = s.resamplers := setPort_resamplers _ _ _
@[simp] theorem writeCmd_bufL : (s.writeCmd p w).bufL = s.bufL := setPort_bufL _ _ _
@[simp] theorem writeCmd_bufR : (s.writeCmd p w).bufR = s.bufR := setPort_bufR _ _ _
@[simp] theorem writeCmd_peaks : (s.writeCmd p w).peaks = s.peaks := setPort_peaks _ _ _
@[simp] theorem writeCmd_block : (s.writeCmd p w).block = s.block := setPort_block _ _ _
@[simp] theorem writeCmd_mem : (s.writeCmd p w).mem = s.mem := setPort_mem _ _ _
@[simp] theorem writeCmd_faultLog : (s.writeCmd p w).faultLog = s.faultLog := setPort_faultLog _ _ _
@[simp] theorem writeCmd_inputs : (s.writeCmd p w).inputs = s.inputs := setPort_inputs _ _ _
@[simp] theorem writeCmd_active : (s.writeCmd p w).active = s.active := setPort_active _ _ _
@[simp] theorem writeCmd_free : (s.writeCmd p w).free = s.free := setPort_free _ _ _

end writeCmd

section tick

variable (s : State)

@[simp] theorem tick_params : (s.tick).params = s.params := rfl
@[simp] theorem tick_p0 : (s.tick).p0 = s.p0 := rfl
@[simp] theorem tick_p1 : (s.tick).p1 = s.p1 := rfl
@[simp] theorem tick_fault : (s.tick).fault = s.fault := rfl
@[simp] theorem tick_delayIndex : (s.tick).delayIndex = s.delayIndex := rfl
@[simp] theorem tick_testctl : (s.tick).testctl = s.testctl := rfl
@[simp] theorem tick_hostRate : (s.tick).hostRate = s.hostRate := rfl
@[simp] theorem tick_len : (s.tick).len = s.len := rfl
@[simp] theorem tick_writePos : (s.tick).writePos = s.writePos := rfl
@[simp] theorem tick_filters : (s.tick).filters = s.filters := rfl
@[simp] theorem tick_resamplers : (s.tick).resamplers = s.resamplers := rfl
@[simp] theorem tick_bufL : (s.tick).bufL = s.bufL := rfl
@[simp] theorem tick_bufR : (s.tick).bufR = s.bufR := rfl
@[simp] theorem tick_peaks : (s.tick).peaks = s.peaks := rfl
@[simp] theorem tick_block : (s.tick).block = s.block := rfl
@[simp] theorem tick_mem : (s.tick).mem = s.mem := rfl
@[simp] theorem tick_faultLog : (s.tick).faultLog = s.faultLog := rfl
@[simp] theorem tick_inputs : (s.tick).inputs = s.inputs := rfl
@[simp] theorem tick_active : (s.tick).active = s.active := rfl
@[simp] theorem tick_free : (s.tick).free = s.free + 1 := rfl

end tick

section setFilter

variable (s : State) (i : Fin 8) (f : FilterUnit)

@[simp] theorem setFilter_params : (s.setFilter i f).params = s.params := rfl
@[simp] theorem setFilter_p0 : (s.setFilter i f).p0 = s.p0 := rfl
@[simp] theorem setFilter_p1 : (s.setFilter i f).p1 = s.p1 := rfl
@[simp] theorem setFilter_fault : (s.setFilter i f).fault = s.fault := rfl
@[simp] theorem setFilter_delayIndex : (s.setFilter i f).delayIndex = s.delayIndex := rfl
@[simp] theorem setFilter_testctl : (s.setFilter i f).testctl = s.testctl := rfl
@[simp] theorem setFilter_hostRate : (s.setFilter i f).hostRate = s.hostRate := rfl
@[simp] theorem setFilter_len : (s.setFilter i f).len = s.len := rfl
@[simp] theorem setFilter_writePos : (s.setFilter i f).writePos = s.writePos := rfl
@[simp] theorem setFilter_filters : (s.setFilter i f).filters = s.filters.set i f := rfl
@[simp] theorem setFilter_resamplers : (s.setFilter i f).resamplers = s.resamplers := rfl
@[simp] theorem setFilter_bufL : (s.setFilter i f).bufL = s.bufL := rfl
@[simp] theorem setFilter_bufR : (s.setFilter i f).bufR = s.bufR := rfl
@[simp] theorem setFilter_peaks : (s.setFilter i f).peaks = s.peaks := rfl
@[simp] theorem setFilter_block : (s.setFilter i f).block = s.block := rfl
@[simp] theorem setFilter_mem : (s.setFilter i f).mem = s.mem := rfl
@[simp] theorem setFilter_faultLog : (s.setFilter i f).faultLog = s.faultLog := rfl
@[simp] theorem setFilter_inputs : (s.setFilter i f).inputs = s.inputs := rfl
@[simp] theorem setFilter_active : (s.setFilter i f).active = s.active := rfl
@[simp] theorem setFilter_free : (s.setFilter i f).free = s.free := rfl

end setFilter

section setResampler

variable (s : State) (i : Fin 4) (r : ResamplerUnit)

@[simp] theorem setResampler_params : (s.setResampler i r).params = s.params := rfl
@[simp] theorem setResampler_p0 : (s.setResampler i r).p0 = s.p0 := rfl
@[simp] theorem setResampler_p1 : (s.setResampler i r).p1 = s.p1 := rfl
@[simp] theorem setResampler_fault : (s.setResampler i r).fault = s.fault := rfl
@[simp] theorem setResampler_delayIndex : (s.setResampler i r).delayIndex = s.delayIndex := rfl
@[simp] theorem setResampler_testctl : (s.setResampler i r).testctl = s.testctl := rfl
@[simp] theorem setResampler_hostRate : (s.setResampler i r).hostRate = s.hostRate := rfl
@[simp] theorem setResampler_len : (s.setResampler i r).len = s.len := rfl
@[simp] theorem setResampler_writePos : (s.setResampler i r).writePos = s.writePos := rfl
@[simp] theorem setResampler_filters : (s.setResampler i r).filters = s.filters := rfl
@[simp] theorem setResampler_resamplers : (s.setResampler i r).resamplers = s.resamplers.set i r := rfl
@[simp] theorem setResampler_bufL : (s.setResampler i r).bufL = s.bufL := rfl
@[simp] theorem setResampler_bufR : (s.setResampler i r).bufR = s.bufR := rfl
@[simp] theorem setResampler_peaks : (s.setResampler i r).peaks = s.peaks := rfl
@[simp] theorem setResampler_block : (s.setResampler i r).block = s.block := rfl
@[simp] theorem setResampler_mem : (s.setResampler i r).mem = s.mem := rfl
@[simp] theorem setResampler_faultLog : (s.setResampler i r).faultLog = s.faultLog := rfl
@[simp] theorem setResampler_inputs : (s.setResampler i r).inputs = s.inputs := rfl
@[simp] theorem setResampler_active : (s.setResampler i r).active = s.active := rfl
@[simp] theorem setResampler_free : (s.setResampler i r).free = s.free := rfl

end setResampler

section faultEntry

variable (s : State) (p : Port) (w : Word) (c : Cause)

@[simp] theorem faultEntry_params : (s.faultEntry p w c).params = s.params := rfl
@[simp] theorem faultEntry_p0 : (s.faultEntry p w c).p0 = s.p0 := rfl
@[simp] theorem faultEntry_p1 : (s.faultEntry p w c).p1 = s.p1 := rfl
@[simp] theorem faultEntry_fault : (s.faultEntry p w c).fault = some c := rfl
@[simp] theorem faultEntry_delayIndex : (s.faultEntry p w c).delayIndex = s.delayIndex := rfl
@[simp] theorem faultEntry_testctl : (s.faultEntry p w c).testctl = s.testctl := rfl
@[simp] theorem faultEntry_hostRate : (s.faultEntry p w c).hostRate = s.hostRate := rfl
@[simp] theorem faultEntry_len : (s.faultEntry p w c).len = if c = .alloc then 0 else s.len := rfl
@[simp] theorem faultEntry_writePos : (s.faultEntry p w c).writePos = s.writePos := rfl
@[simp] theorem faultEntry_filters : (s.faultEntry p w c).filters = s.filters := rfl
@[simp] theorem faultEntry_resamplers : (s.faultEntry p w c).resamplers = s.resamplers := rfl
@[simp] theorem faultEntry_bufL : (s.faultEntry p w c).bufL = s.bufL := rfl
@[simp] theorem faultEntry_bufR : (s.faultEntry p w c).bufR = s.bufR := rfl
@[simp] theorem faultEntry_peaks : (s.faultEntry p w c).peaks = s.peaks := rfl
@[simp] theorem faultEntry_block : (s.faultEntry p w c).block = s.block := rfl
@[simp] theorem faultEntry_mem : (s.faultEntry p w c).mem = s.mem := rfl
@[simp] theorem faultEntry_faultLog :
    (s.faultEntry p w c).faultLog = s.faultLog ++ [{ port := p, word := w, what := .fault c }] := rfl
@[simp] theorem faultEntry_inputs : (s.faultEntry p w c).inputs = s.inputs := rfl
@[simp] theorem faultEntry_active : (s.faultEntry p w c).active = s.active := rfl
@[simp] theorem faultEntry_free : (s.faultEntry p w c).free = s.free := rfl

end faultEntry

section refuse

variable (s : State) (w : Word)

@[simp] theorem refuse_params : (s.refuse w).params = s.params := rfl
@[simp] theorem refuse_p0 : (s.refuse w).p0 = s.p0 := rfl
@[simp] theorem refuse_p1 : (s.refuse w).p1 = s.p1 := rfl
@[simp] theorem refuse_fault : (s.refuse w).fault = s.fault := rfl
@[simp] theorem refuse_delayIndex : (s.refuse w).delayIndex = s.delayIndex := rfl
@[simp] theorem refuse_testctl : (s.refuse w).testctl = s.testctl := rfl
@[simp] theorem refuse_hostRate : (s.refuse w).hostRate = s.hostRate := rfl
@[simp] theorem refuse_len : (s.refuse w).len = s.len := rfl
@[simp] theorem refuse_writePos : (s.refuse w).writePos = s.writePos := rfl
@[simp] theorem refuse_filters : (s.refuse w).filters = s.filters := rfl
@[simp] theorem refuse_resamplers : (s.refuse w).resamplers = s.resamplers := rfl
@[simp] theorem refuse_bufL : (s.refuse w).bufL = s.bufL := rfl
@[simp] theorem refuse_bufR : (s.refuse w).bufR = s.bufR := rfl
@[simp] theorem refuse_peaks : (s.refuse w).peaks = s.peaks := rfl
@[simp] theorem refuse_block : (s.refuse w).block = s.block := rfl
@[simp] theorem refuse_mem : (s.refuse w).mem = s.mem := rfl
@[simp] theorem refuse_faultLog :
    (s.refuse w).faultLog = s.faultLog ++ [{ port := .p0, word := w, what := .refused }] := rfl
@[simp] theorem refuse_inputs : (s.refuse w).inputs = s.inputs := rfl
@[simp] theorem refuse_active : (s.refuse w).active = s.active := rfl
@[simp] theorem refuse_free : (s.refuse w).free = s.free := rfl

end refuse

section setDelayLine

variable (s : State) (l : DelayLine)

@[simp] theorem setDelayLine_params : (s.setDelayLine l).params = s.params := rfl
@[simp] theorem setDelayLine_p0 : (s.setDelayLine l).p0 = s.p0 := rfl
@[simp] theorem setDelayLine_p1 : (s.setDelayLine l).p1 = s.p1 := rfl
@[simp] theorem setDelayLine_fault : (s.setDelayLine l).fault = s.fault := rfl
@[simp] theorem setDelayLine_delayIndex : (s.setDelayLine l).delayIndex = s.delayIndex := rfl
@[simp] theorem setDelayLine_testctl : (s.setDelayLine l).testctl = s.testctl := rfl
@[simp] theorem setDelayLine_hostRate : (s.setDelayLine l).hostRate = s.hostRate := rfl
@[simp] theorem setDelayLine_len : (s.setDelayLine l).len = s.len := rfl
@[simp] theorem setDelayLine_writePos : (s.setDelayLine l).writePos = some l.writePos := rfl
@[simp] theorem setDelayLine_filters :
    (s.setDelayLine l).filters = (((s.filters.set 4 l.hpL.toUnit).set 5 l.hpR.toUnit).set 6 l.lpL.toUnit).set 7 l.lpR.toUnit := rfl
@[simp] theorem setDelayLine_resamplers : (s.setDelayLine l).resamplers = s.resamplers := rfl
@[simp] theorem setDelayLine_bufL : (s.setDelayLine l).bufL = l.bufL := rfl
@[simp] theorem setDelayLine_bufR : (s.setDelayLine l).bufR = l.bufR := rfl
@[simp] theorem setDelayLine_peaks : (s.setDelayLine l).peaks = s.peaks := rfl
@[simp] theorem setDelayLine_block : (s.setDelayLine l).block = s.block := rfl
@[simp] theorem setDelayLine_mem : (s.setDelayLine l).mem = s.mem := rfl
@[simp] theorem setDelayLine_faultLog : (s.setDelayLine l).faultLog = s.faultLog := rfl
@[simp] theorem setDelayLine_inputs : (s.setDelayLine l).inputs = s.inputs := rfl
@[simp] theorem setDelayLine_active : (s.setDelayLine l).active = s.active := rfl
@[simp] theorem setDelayLine_free : (s.setDelayLine l).free = s.free := rfl

end setDelayLine

section setEngine

variable (s : State) (e : Engine)

@[simp] theorem setEngine_params : (s.setEngine e).params = s.params := rfl
@[simp] theorem setEngine_p0 : (s.setEngine e).p0 = s.p0 := rfl
@[simp] theorem setEngine_p1 : (s.setEngine e).p1 = s.p1 := rfl
@[simp] theorem setEngine_fault : (s.setEngine e).fault = s.fault := rfl
@[simp] theorem setEngine_delayIndex : (s.setEngine e).delayIndex = s.delayIndex := rfl
@[simp] theorem setEngine_testctl : (s.setEngine e).testctl = s.testctl := rfl
@[simp] theorem setEngine_hostRate : (s.setEngine e).hostRate = s.hostRate := rfl
@[simp] theorem setEngine_len : (s.setEngine e).len = s.len := rfl
@[simp] theorem setEngine_writePos : (s.setEngine e).writePos = some e.line.writePos := rfl
@[simp] theorem setEngine_bufL : (s.setEngine e).bufL = e.line.bufL := rfl
@[simp] theorem setEngine_bufR : (s.setEngine e).bufR = e.line.bufR := rfl
@[simp] theorem setEngine_peaks : (s.setEngine e).peaks = s.peaks := rfl
@[simp] theorem setEngine_block : (s.setEngine e).block = s.block := rfl
@[simp] theorem setEngine_mem : (s.setEngine e).mem = s.mem := rfl
@[simp] theorem setEngine_faultLog : (s.setEngine e).faultLog = s.faultLog := rfl
@[simp] theorem setEngine_inputs : (s.setEngine e).inputs = s.inputs := rfl
@[simp] theorem setEngine_active : (s.setEngine e).active = s.active := rfl
@[simp] theorem setEngine_free : (s.setEngine e).free = s.free := rfl

end setEngine

section prepareWith

variable (s : State) (fs : F64) (n : Nat)

@[simp] theorem prepareWith_params : (s.prepareWith fs n).params = s.params := rfl
@[simp] theorem prepareWith_p0 : (s.prepareWith fs n).p0 = s.p0 := rfl
@[simp] theorem prepareWith_p1 : (s.prepareWith fs n).p1 = s.p1 := rfl
@[simp] theorem prepareWith_fault : (s.prepareWith fs n).fault = none := rfl
@[simp] theorem prepareWith_delayIndex : (s.prepareWith fs n).delayIndex = s.delayIndex := rfl
@[simp] theorem prepareWith_testctl : (s.prepareWith fs n).testctl = s.testctl := rfl
@[simp] theorem prepareWith_hostRate : (s.prepareWith fs n).hostRate = some fs := rfl
@[simp] theorem prepareWith_len : (s.prepareWith fs n).len = n := rfl
@[simp] theorem prepareWith_writePos : (s.prepareWith fs n).writePos = some 0 := rfl
@[simp] theorem prepareWith_filters :
    (s.prepareWith fs n).filters = Vector.ofFn (preparedFilter s.params.coef fs) := rfl
@[simp] theorem prepareWith_resamplers :
    (s.prepareWith fs n).resamplers = Vector.replicate 4 ResamplerUnit.cleared := rfl
@[simp] theorem prepareWith_bufL : (s.prepareWith fs n).bufL = cellsClearBelow s.bufL n := rfl
@[simp] theorem prepareWith_bufR : (s.prepareWith fs n).bufR = cellsClearBelow s.bufR n := rfl
@[simp] theorem prepareWith_peaks : (s.prepareWith fs n).peaks = s.peaks := rfl
@[simp] theorem prepareWith_block : (s.prepareWith fs n).block = s.block := rfl
@[simp] theorem prepareWith_mem : (s.prepareWith fs n).mem = s.mem := rfl
@[simp] theorem prepareWith_faultLog : (s.prepareWith fs n).faultLog = s.faultLog := rfl
@[simp] theorem prepareWith_inputs : (s.prepareWith fs n).inputs = s.inputs := rfl
@[simp] theorem prepareWith_active : (s.prepareWith fs n).active = s.active := rfl
@[simp] theorem prepareWith_free : (s.prepareWith fs n).free = s.free := rfl

end prepareWith

section clearHistory

variable (s : State)

@[simp] theorem clearHistory_params : (s.clearHistory).params = s.params := rfl
@[simp] theorem clearHistory_p0 : (s.clearHistory).p0 = s.p0 := rfl
@[simp] theorem clearHistory_p1 : (s.clearHistory).p1 = s.p1 := rfl
@[simp] theorem clearHistory_fault : (s.clearHistory).fault = s.fault := rfl
@[simp] theorem clearHistory_delayIndex : (s.clearHistory).delayIndex = s.delayIndex := rfl
@[simp] theorem clearHistory_testctl : (s.clearHistory).testctl = s.testctl := rfl
@[simp] theorem clearHistory_hostRate : (s.clearHistory).hostRate = s.hostRate := rfl
@[simp] theorem clearHistory_len : (s.clearHistory).len = s.len := rfl
@[simp] theorem clearHistory_writePos :
    (s.clearHistory).writePos = if 0 < s.len then some (freeCursor s.len [s.free]) else s.writePos := rfl
@[simp] theorem clearHistory_filters : (s.clearHistory).filters = s.filters.map FilterUnit.cleared := rfl
@[simp] theorem clearHistory_resamplers :
    (s.clearHistory).resamplers = Vector.replicate 4 ResamplerUnit.cleared := rfl
@[simp] theorem clearHistory_bufL : (s.clearHistory).bufL = cellsClearBelow s.bufL s.len := rfl
@[simp] theorem clearHistory_bufR : (s.clearHistory).bufR = cellsClearBelow s.bufR s.len := rfl
@[simp] theorem clearHistory_peaks : (s.clearHistory).peaks = s.peaks := rfl
@[simp] theorem clearHistory_block : (s.clearHistory).block = s.block := rfl
@[simp] theorem clearHistory_mem : (s.clearHistory).mem = s.mem := rfl
@[simp] theorem clearHistory_faultLog : (s.clearHistory).faultLog = s.faultLog := rfl
@[simp] theorem clearHistory_inputs : (s.clearHistory).inputs = s.inputs := rfl
@[simp] theorem clearHistory_active : (s.clearHistory).active = s.active := rfl
@[simp] theorem clearHistory_free : (s.clearHistory).free = s.free + 1 := rfl

end clearHistory

section peakUpdate

variable (s : State) (c : Fin 4) (x : F32)

@[simp] theorem peakUpdate_params : (s.peakUpdate c x).params = s.params := rfl
@[simp] theorem peakUpdate_p0 : (s.peakUpdate c x).p0 = s.p0 := rfl
@[simp] theorem peakUpdate_p1 : (s.peakUpdate c x).p1 = s.p1 := rfl
@[simp] theorem peakUpdate_fault : (s.peakUpdate c x).fault = s.fault := rfl
@[simp] theorem peakUpdate_delayIndex : (s.peakUpdate c x).delayIndex = s.delayIndex := rfl
@[simp] theorem peakUpdate_testctl : (s.peakUpdate c x).testctl = s.testctl := rfl
@[simp] theorem peakUpdate_hostRate : (s.peakUpdate c x).hostRate = s.hostRate := rfl
@[simp] theorem peakUpdate_len : (s.peakUpdate c x).len = s.len := rfl
@[simp] theorem peakUpdate_writePos : (s.peakUpdate c x).writePos = s.writePos := rfl
@[simp] theorem peakUpdate_filters : (s.peakUpdate c x).filters = s.filters := rfl
@[simp] theorem peakUpdate_resamplers : (s.peakUpdate c x).resamplers = s.resamplers := rfl
@[simp] theorem peakUpdate_bufL : (s.peakUpdate c x).bufL = s.bufL := rfl
@[simp] theorem peakUpdate_bufR : (s.peakUpdate c x).bufR = s.bufR := rfl
@[simp] theorem peakUpdate_peaks : (s.peakUpdate c x).peaks = s.peaks.set c (peakNext [s.free] s.peaks[c] x) := rfl
@[simp] theorem peakUpdate_block : (s.peakUpdate c x).block = s.block := rfl
@[simp] theorem peakUpdate_mem : (s.peakUpdate c x).mem = s.mem := rfl
@[simp] theorem peakUpdate_faultLog : (s.peakUpdate c x).faultLog = s.faultLog := rfl
@[simp] theorem peakUpdate_inputs : (s.peakUpdate c x).inputs = s.inputs := rfl
@[simp] theorem peakUpdate_active : (s.peakUpdate c x).active = s.active := rfl
@[simp] theorem peakUpdate_free : (s.peakUpdate c x).free = s.free + 1 := rfl

end peakUpdate

section advanceBlock

variable (s : State) (b : Block) (n : Option BlockStage)

@[simp] theorem advanceBlock_params : (s.advanceBlock b n).params = s.params := rfl
@[simp] theorem advanceBlock_p0 : (s.advanceBlock b n).p0 = s.p0 := rfl
@[simp] theorem advanceBlock_p1 : (s.advanceBlock b n).p1 = s.p1 := rfl
@[simp] theorem advanceBlock_fault : (s.advanceBlock b n).fault = s.fault := rfl
@[simp] theorem advanceBlock_delayIndex : (s.advanceBlock b n).delayIndex = s.delayIndex := rfl
@[simp] theorem advanceBlock_testctl : (s.advanceBlock b n).testctl = s.testctl := rfl
@[simp] theorem advanceBlock_hostRate : (s.advanceBlock b n).hostRate = s.hostRate := rfl
@[simp] theorem advanceBlock_len : (s.advanceBlock b n).len = s.len := rfl
@[simp] theorem advanceBlock_writePos : (s.advanceBlock b n).writePos = s.writePos := rfl
@[simp] theorem advanceBlock_filters : (s.advanceBlock b n).filters = s.filters := rfl
@[simp] theorem advanceBlock_resamplers : (s.advanceBlock b n).resamplers = s.resamplers := rfl
@[simp] theorem advanceBlock_bufL : (s.advanceBlock b n).bufL = s.bufL := rfl
@[simp] theorem advanceBlock_bufR : (s.advanceBlock b n).bufR = s.bufR := rfl
@[simp] theorem advanceBlock_peaks : (s.advanceBlock b n).peaks = s.peaks := rfl
@[simp] theorem advanceBlock_block : (s.advanceBlock b n).block = n.map fun st => { b with stage := st } := rfl
@[simp] theorem advanceBlock_mem : (s.advanceBlock b n).mem = s.mem := rfl
@[simp] theorem advanceBlock_faultLog : (s.advanceBlock b n).faultLog = s.faultLog := rfl
@[simp] theorem advanceBlock_inputs : (s.advanceBlock b n).inputs = s.inputs := rfl
@[simp] theorem advanceBlock_active : (s.advanceBlock b n).active = s.active := rfl
@[simp] theorem advanceBlock_free : (s.advanceBlock b n).free = s.free := rfl

end advanceBlock

section finishResample

variable (s : State) (i : Fin 4) (o : Nat) (ys : List F32) (r : ResamplerRegs)

@[simp] theorem finishResample_params :
    (s.finishResample i o ys r).params = s.params := by simp [State.finishResample]
@[simp] theorem finishResample_fault : (s.finishResample i o ys r).fault = s.fault := by simp [State.finishResample]
@[simp] theorem finishResample_delayIndex :
    (s.finishResample i o ys r).delayIndex = s.delayIndex := by simp [State.finishResample]
@[simp] theorem finishResample_testctl :
    (s.finishResample i o ys r).testctl = s.testctl := by simp [State.finishResample]
@[simp] theorem finishResample_hostRate :
    (s.finishResample i o ys r).hostRate = s.hostRate := by simp [State.finishResample]
@[simp] theorem finishResample_len : (s.finishResample i o ys r).len = s.len := by simp [State.finishResample]
@[simp] theorem finishResample_writePos :
    (s.finishResample i o ys r).writePos = s.writePos := by simp [State.finishResample]
@[simp] theorem finishResample_filters :
    (s.finishResample i o ys r).filters = s.filters := by simp [State.finishResample]
@[simp] theorem finishResample_resamplers :
    (s.finishResample i o ys r).resamplers = s.resamplers.set i r.toUnit := by simp [State.finishResample]
@[simp] theorem finishResample_bufL : (s.finishResample i o ys r).bufL = s.bufL := by simp [State.finishResample]
@[simp] theorem finishResample_bufR : (s.finishResample i o ys r).bufR = s.bufR := by simp [State.finishResample]
@[simp] theorem finishResample_peaks : (s.finishResample i o ys r).peaks = s.peaks := by simp [State.finishResample]
@[simp] theorem finishResample_block : (s.finishResample i o ys r).block = s.block := by simp [State.finishResample]
@[simp] theorem finishResample_mem :
    (s.finishResample i o ys r).mem = writeArray s.params.byteOrder s.mem o ys := by simp [State.finishResample]
@[simp] theorem finishResample_faultLog :
    (s.finishResample i o ys r).faultLog = s.faultLog := by simp [State.finishResample]
@[simp] theorem finishResample_inputs :
    (s.finishResample i o ys r).inputs = s.inputs := by simp [State.finishResample]
@[simp] theorem finishResample_active :
    (s.finishResample i o ys r).active = s.active := by simp [State.finishResample]
@[simp] theorem finishResample_free : (s.finishResample i o ys r).free = s.free + 1 := by simp [State.finishResample]

end finishResample

section finishBlock

variable (s : State) (a : StereoArrays) (o : (List F32 × List F32) × Engine)

@[simp] theorem finishBlock_params : (s.finishBlock a o).params = s.params := rfl
@[simp] theorem finishBlock_p0 : (s.finishBlock a o).p0 = s.p0 := rfl
@[simp] theorem finishBlock_p1 : (s.finishBlock a o).p1 = s.p1 := rfl
@[simp] theorem finishBlock_fault : (s.finishBlock a o).fault = s.fault := rfl
@[simp] theorem finishBlock_delayIndex : (s.finishBlock a o).delayIndex = s.delayIndex := rfl
@[simp] theorem finishBlock_testctl : (s.finishBlock a o).testctl = s.testctl := rfl
@[simp] theorem finishBlock_hostRate : (s.finishBlock a o).hostRate = s.hostRate := rfl
@[simp] theorem finishBlock_len : (s.finishBlock a o).len = s.len := rfl
@[simp] theorem finishBlock_writePos : (s.finishBlock a o).writePos = some o.2.line.writePos := rfl
@[simp] theorem finishBlock_filters : (s.finishBlock a o).filters = (s.setEngine o.2).filters := rfl
@[simp] theorem finishBlock_resamplers : (s.finishBlock a o).resamplers = (s.setEngine o.2).resamplers := rfl
@[simp] theorem finishBlock_bufL : (s.finishBlock a o).bufL = o.2.line.bufL := rfl
@[simp] theorem finishBlock_bufR : (s.finishBlock a o).bufR = o.2.line.bufR := rfl
@[simp] theorem finishBlock_peaks : (s.finishBlock a o).peaks = s.peaks := rfl
@[simp] theorem finishBlock_block : (s.finishBlock a o).block = s.block := rfl
@[simp] theorem finishBlock_mem :
    (s.finishBlock a o).mem = writeStereo s.params.byteOrder s.mem a.outL a.outR (o.1.1.zip o.1.2) := rfl
@[simp] theorem finishBlock_faultLog : (s.finishBlock a o).faultLog = s.faultLog := rfl
@[simp] theorem finishBlock_inputs : (s.finishBlock a o).inputs = s.inputs := rfl
@[simp] theorem finishBlock_active : (s.finishBlock a o).active = s.active := rfl
@[simp] theorem finishBlock_free : (s.finishBlock a o).free = s.free + 1 := rfl

end finishBlock

section powerCycle

variable (s : State)

@[simp] theorem powerCycle_params : (s.powerCycle).params = s.params := rfl
@[simp] theorem powerCycle_p0 : (s.powerCycle).p0 = PortRegs.unwritten := rfl
@[simp] theorem powerCycle_p1 : (s.powerCycle).p1 = PortRegs.unwritten := rfl
@[simp] theorem powerCycle_fault : (s.powerCycle).fault = none := rfl
@[simp] theorem powerCycle_delayIndex : (s.powerCycle).delayIndex = none := rfl
@[simp] theorem powerCycle_testctl : (s.powerCycle).testctl = 0#32 := rfl
@[simp] theorem powerCycle_hostRate : (s.powerCycle).hostRate = none := rfl
@[simp] theorem powerCycle_len : (s.powerCycle).len = 0 := rfl
@[simp] theorem powerCycle_writePos : (s.powerCycle).writePos = none := rfl
@[simp] theorem powerCycle_filters : (s.powerCycle).filters = Vector.replicate 8 FilterUnit.unwritten := rfl
@[simp] theorem powerCycle_resamplers : (s.powerCycle).resamplers = Vector.replicate 4 ResamplerUnit.unwritten := rfl
@[simp] theorem powerCycle_bufL : (s.powerCycle).bufL = [] := rfl
@[simp] theorem powerCycle_bufR : (s.powerCycle).bufR = [] := rfl
@[simp] theorem powerCycle_peaks : (s.powerCycle).peaks = s.params.peakInit := rfl
@[simp] theorem powerCycle_block : (s.powerCycle).block = none := rfl
@[simp] theorem powerCycle_mem : (s.powerCycle).mem = s.mem := rfl
@[simp] theorem powerCycle_faultLog : (s.powerCycle).faultLog = [] := rfl
@[simp] theorem powerCycle_inputs : (s.powerCycle).inputs = s.inputs := rfl
@[simp] theorem powerCycle_active : (s.powerCycle).active = .p0 := rfl
@[simp] theorem powerCycle_free : (s.powerCycle).free = s.free := rfl

end powerCycle

/-- The port just written reads back. -/
@[simp] theorem setPort_port_self (s : State) (p : Port) (r : PortRegs) : (s.setPort p r).port p = r := by
  cases p <;> rfl

/-- The other port is unchanged. -/
theorem setPort_port_other (s : State) {p q : Port} (r : PortRegs) (h : q ≠ p) : (s.setPort p r).port q = s.port q := by
  cases p <;> cases q <;> first | rfl | exact absurd rfl h

end Sys2Proof.Machine.State
end

