-- ==== Sys2Proof/Laws/Ops.lean ====
section
/-!
SUPPORT. Laws of the shared operations: cells keep their canonical form and read back what was written; the order of
tests of a command; the reads of operands and of registers that may be unwritten.
-/

namespace Sys2Proof.Machine

section Cells

variable {w : Nat}

@[simp] theorem cellsGet_nil (a : Nat) : cellsGet ([] : List (Nat × BitVec w)) a = unlisted := rfl

@[simp] theorem cellsWf_nil : cellsWf ([] : List (Nat × BitVec w)) = true := rfl

/-- The canonical form of a list with a head: the head is listed for a reason, its key is below every key that follows
first, and the rest is canonical. -/
theorem cellsWf_cons (k : Nat) (v : BitVec w) (rest : List (Nat × BitVec w)) :
    cellsWf ((k, v) :: rest) = true ↔
      v ≠ unlisted ∧ (∀ c ∈ rest.head?, k < c.1) ∧ cellsWf rest = true := by
  cases rest with
  | nil => simp [cellsWf]
  | cons c cs => obtain ⟨k', v'⟩ := c; simp [cellsWf, and_assoc]

/-- In canonical form the head's key is below every later key. -/
theorem cellsWf_head_lt {k : Nat} {v : BitVec w} {rest : List (Nat × BitVec w)}
    (h : cellsWf ((k, v) :: rest) = true) : ∀ c ∈ rest, k < c.1 := by
  induction rest generalizing k v with
  | nil => simp
  | cons c cs ih =>
    obtain ⟨k', v'⟩ := c
    obtain ⟨-, hk, hr⟩ := (cellsWf_cons _ _ _).1 h
    have hk' : k < k' := hk (k', v') rfl
    intro d hd
    rcases List.mem_cons.1 hd with rfl | hd
    · exact hk'
    · exact hk'.trans (ih hr d hd)

/-- A key below all listed ones reads as unlisted. -/
theorem cellsGet_of_lt {cells : List (Nat × BitVec w)} {a : Nat} (h : ∀ c ∈ cells, a < c.1) :
    cellsGet cells a = unlisted := by
  induction cells with
  | nil => rfl
  | cons c cs ih =>
    obtain ⟨k, v⟩ := c
    have hk : a < k := h (k, v) List.mem_cons_self
    have hne : ¬ k = a := by omega
    simp only [cellsGet, hne, if_false]
    exact ih fun d hd => h d (List.mem_cons_of_mem _ hd)

/-- A read after a write to the same place gives the value written, in canonical form. -/
theorem cellsGet_cellsSet_same {cells : List (Nat × BitVec w)} (h : cellsWf cells = true) (a : Nat) (v : BitVec w) :
    cellsGet (cellsSet cells a v) a = v := by
  induction cells with
  | nil => by_cases hv : v = unlisted <;> simp [cellsSet, cellsGet, hv]
  | cons c cs ih =>
    obtain ⟨k, u⟩ := c
    obtain ⟨-, -, hr⟩ := (cellsWf_cons _ _ _).1 h
    have hlt := cellsWf_head_lt h
    by_cases h1 : a < k
    · by_cases hv : v = unlisted
      · have hne : ¬ k = a := by omega
        simp only [cellsSet, h1, hv, if_true, cellsGet, hne, if_false]
        exact cellsGet_of_lt fun d hd => h1.trans (hlt d hd)
      · simp [cellsSet, h1, hv, cellsGet]
    · by_cases h2 : a = k
      · subst h2
        by_cases hv : v = unlisted
        · simp only [cellsSet, lt_irrefl, if_false, hv, if_true]
          exact cellsGet_of_lt hlt
        · simp [cellsSet, hv, cellsGet]
      · have hne : ¬ k = a := fun e => h2 e.symm
        simp only [cellsSet, h1, h2, if_false, cellsGet, hne]
        exact ih hr

/-- A write leaves every other place alone. -/
theorem cellsGet_cellsSet_other (cells : List (Nat × BitVec w)) {a b : Nat} (v : BitVec w) (hab : b ≠ a) :
    cellsGet (cellsSet cells a v) b = cellsGet cells b := by
  induction cells with
  | nil =>
    have hne : ¬ a = b := fun e => hab e.symm
    by_cases hv : v = unlisted <;> simp [cellsSet, cellsGet, hv, hne]
  | cons c cs ih =>
    obtain ⟨k, u⟩ := c
    have hne : ¬ a = b := fun e => hab e.symm
    by_cases h1 : a < k
    · by_cases hv : v = unlisted <;> simp [cellsSet, h1, hv, cellsGet, hne]
    · by_cases h2 : a = k
      · subst h2
        by_cases hv : v = unlisted <;> simp [cellsSet, hv, cellsGet, hne]
      · simp only [cellsSet, h1, h2, if_false, cellsGet, ih]

/-- The keys a write leaves are the old ones and the one written. -/
theorem mem_cellsSet {cells : List (Nat × BitVec w)} {a : Nat} {v : BitVec w} {c : Nat × BitVec w}
    (h : c ∈ cellsSet cells a v) : c = (a, v) ∨ c ∈ cells := by
  induction cells with
  | nil => by_cases hv : v = unlisted <;> simp_all [cellsSet]
  | cons d ds ih =>
    obtain ⟨k, u⟩ := d
    by_cases h1 : a < k
    · by_cases hv : v = unlisted <;> simp_all [cellsSet]
    · by_cases h2 : a = k
      · subst h2
        by_cases hv : v = unlisted
        · simp only [cellsSet, lt_irrefl, if_false, if_true, hv] at h
          exact .inr (List.mem_cons_of_mem _ h)
        · simp only [cellsSet, lt_irrefl, if_false, if_true, hv, List.mem_cons] at h
          exact h.imp_right (List.mem_cons_of_mem _)
      · simp only [cellsSet, h1, h2, if_false, List.mem_cons] at h
        rcases h with rfl | h
        · exact .inr List.mem_cons_self
        · exact (ih h).imp_right (List.mem_cons_of_mem _)

/-- A write keeps the canonical form. -/
theorem cellsSet_wf {cells : List (Nat × BitVec w)} (h : cellsWf cells = true) (a : Nat) (v : BitVec w) :
    cellsWf (cellsSet cells a v) = true := by
  induction cells with
  | nil => by_cases hv : v = unlisted <;> simp [cellsSet, cellsWf, hv]
  | cons c cs ih =>
    obtain ⟨k, u⟩ := c
    obtain ⟨hu, hk, hr⟩ := (cellsWf_cons _ _ _).1 h
    have hlt := cellsWf_head_lt h
    by_cases h1 : a < k
    · by_cases hv : v = unlisted
      · simpa [cellsSet, h1, hv] using h
      · simp only [cellsSet, h1, hv, if_true, if_false]
        exact (cellsWf_cons _ _ _).2 ⟨hv, by simpa using h1, h⟩
    · by_cases h2 : a = k
      · subst h2
        by_cases hv : v = unlisted
        · simpa [cellsSet, hv] using hr
        · simp only [cellsSet, lt_irrefl, if_false, hv, if_true]
          exact (cellsWf_cons _ _ _).2 ⟨hv, hk, hr⟩
      · simp only [cellsSet, h1, h2, if_false]
        refine (cellsWf_cons _ _ _).2 ⟨hu, fun c hc => ?_, ih hr⟩
        rcases mem_cellsSet (List.mem_of_mem_head? hc) with rfl | hm
        · show k < a; omega
        · exact hlt _ hm

/-- Clearing the low cells keeps the canonical form. -/
theorem cellsClearBelow_wf {cells : List (Nat × BitVec w)} (h : cellsWf cells = true) (n : Nat) :
    cellsWf (cellsClearBelow cells n) = true := by
  induction cells with
  | nil => rfl
  | cons c cs ih =>
    obtain ⟨k, u⟩ := c
    obtain ⟨hu, -, hr⟩ := (cellsWf_cons _ _ _).1 h
    have hlt := cellsWf_head_lt h
    by_cases hn : n ≤ k
    · simp only [cellsClearBelow, List.filter_cons, hn, decide_true, if_true]
      refine (cellsWf_cons _ _ _).2 ⟨hu, fun c hc => ?_, ih hr⟩
      exact hlt _ (List.mem_of_mem_filter (List.mem_of_mem_head? hc))
    · simpa [cellsClearBelow, List.filter_cons, hn] using ih hr

/-- What the cells read after the low ones are cleared. -/
theorem cellsGet_cellsClearBelow (cells : List (Nat × BitVec w)) (n a : Nat) :
    cellsGet (cellsClearBelow cells n) a = if a < n then unlisted else cellsGet cells a := by
  induction cells with
  | nil => simp [cellsClearBelow]
  | cons c cs ih =>
    obtain ⟨k, u⟩ := c
    have ih' : cellsGet (List.filter (fun c => decide (n ≤ c.1)) cs) a =
        if a < n then unlisted else cellsGet cs a := ih
    by_cases hn : n ≤ k
    · simp only [cellsClearBelow, List.filter_cons, hn, decide_true, if_true]
      by_cases hk : k = a
      · have : ¬ a < n := by omega
        simp [cellsGet, hk, this]
      · simp [cellsGet, hk, ih']
    · simp only [cellsClearBelow, List.filter_cons, hn, decide_false, Bool.false_eq_true, if_false, ih']
      by_cases hk : k = a
      · have : a < n := by omega
        simp [this]
      · simp [cellsGet, hk]

end Cells

section Memory

/-- `MemWrite` keeps the canonical form. -/
theorem memWrite_wf (o : ByteOrder) {m : List Host.Cell} (h : Memory.wf m = true) (a : Nat) (v : F32) :
    Memory.wf (memWrite o m a v) = true :=
  cellsSet_wf (cellsSet_wf (cellsSet_wf (cellsSet_wf h _ _) _ _) _ _) _ _

/-- `MemWrite` leaves every byte outside the element alone. -/
theorem memWrite_other (o : ByteOrder) (m : List Host.Cell) {a b : Nat} (v : F32) (h : b < a ∨ a + 4 ≤ b) :
    cellsGet (memWrite o m a v) b = cellsGet m b := by
  unfold memWrite
  rw [cellsGet_cellsSet_other _ _ (by omega), cellsGet_cellsSet_other _ _ (by omega),
    cellsGet_cellsSet_other _ _ (by omega), cellsGet_cellsSet_other _ _ (by omega)]

/-- Writing an array keeps the canonical form. -/
theorem writeArray_wf (o : ByteOrder) (ys : List F32) {m : List Host.Cell} (h : Memory.wf m = true) (base : Nat) :
    Memory.wf (writeArray o m base ys) = true := by
  induction ys generalizing m base with
  | nil => exact h
  | cons y ys ih => exact ih (memWrite_wf o h base y) (base + 4)

/-- Writing an array leaves every byte outside its elements alone. -/
theorem writeArray_other (o : ByteOrder) (ys : List F32) (m : List Host.Cell) {base b : Nat}
    (h : b < base ∨ base + 4 * ys.length ≤ b) : cellsGet (writeArray o m base ys) b = cellsGet m b := by
  induction ys generalizing m base with
  | nil => rfl
  | cons y ys ih =>
    rw [List.length_cons] at h
    show cellsGet (writeArray o (memWrite o m base y) (base + 4) ys) b = _
    rw [ih _ (by omega), memWrite_other o m y (by omega)]

/-- Writing the two output arrays keeps the canonical form. -/
theorem writeStereo_wf (o : ByteOrder) (ys : List (F32 × F32)) {m : List Host.Cell} (h : Memory.wf m = true)
    (outL outR : Nat) : Memory.wf (writeStereo o m outL outR ys) = true := by
  induction ys generalizing m outL outR with
  | nil => exact h
  | cons y ys ih => exact ih (memWrite_wf o (memWrite_wf o h _ _) _ _) _ _

/-- Writing the two output arrays leaves every byte outside both alone. -/
theorem writeStereo_other (o : ByteOrder) (ys : List (F32 × F32)) (m : List Host.Cell) {outL outR b : Nat}
    (hl : b < outL ∨ outL + 4 * ys.length ≤ b) (hr : b < outR ∨ outR + 4 * ys.length ≤ b) :
    cellsGet (writeStereo o m outL outR ys) b = cellsGet m b := by
  induction ys generalizing m outL outR with
  | nil => rfl
  | cons y ys ih =>
    rw [List.length_cons] at hl hr
    show cellsGet (writeStereo o (memWrite o (memWrite o m outL y.1) outR y.2) (outL + 4) (outR + 4) ys) b = _
    rw [ih _ (by omega) (by omega), memWrite_other o _ _ (by omega), memWrite_other o _ _ (by omega)]

/-- Host memory at power-on is in canonical form. -/
theorem reset_mem_wf : Memory.wf State.reset.mem = true := rfl

end Memory

section Commands

/-- Everything the shared order of tests can do with a command (60 R237). -/
theorem runCommand_cases (i : Instr) (s : State) (body : Except Cause State) :
    (runCommand i s body = .next (s.faultEntry s.active (encode i) .illegal) ∧
      (i.wf = false ∨ i.acceptedOn s.active = false)) ∨
    (runCommand i s body = .next (s.refuse (encode i)) ∧ s.active = .p0 ∧ s.fault ≠ none ∧
      i.servesDeadSession = false) ∨
    (s.accepts i ∧ ∃ t, body = .ok t ∧ runCommand i s body = .next t) ∨
    (s.accepts i ∧ ∃ c, body = .error c ∧ runCommand i s body = .next (s.faultEntry s.active (encode i) c)) := by
  unfold runCommand State.accepts State.refuses State.faulted
  cases hw : i.wf
  · exact .inl ⟨by simp, .inl rfl⟩
  cases hp : i.acceptedOn s.active
  · exact .inl ⟨by simp, .inr rfl⟩
  cases hf : s.fault <;> cases ha : s.active <;> cases hd : i.servesDeadSession <;> cases body <;> simp [settle, ha]

/-- A command that passes the first two tests does what its own tests and effect say. -/
theorem runCommand_of_accepts {i : Instr} {s : State} (h : s.accepts i) (body : Except Cause State) :
    runCommand i s body = settle i s body := by
  obtain ⟨hw, hp, hf⟩ := h
  unfold runCommand State.refuses State.faulted
  rcases hf with hf | hf | hf
  · simp [hw, hp, hf]
  · rw [hf] at hp
    simp [hw, hp, hf]
  · simp [hw, hp, hf]

/-- A command always answers a next state. -/
theorem runCommand_next (i : Instr) (s : State) (body : Except Cause State) :
    ∃ t, runCommand i s body = .next t := by
  rcases runCommand_cases i s body with ⟨h, -⟩ | ⟨h, -⟩ | ⟨-, t, -, h⟩ | ⟨-, c, -, h⟩
  exacts [⟨_, h⟩, ⟨_, h⟩, ⟨t, h⟩, ⟨_, h⟩]

@[simp] theorem written_eq_ok {α : Type} {o : Option α} {v : α} : written o = .ok v ↔ o = some v := by
  cases o <;> simp [written]

/-- A read of a register that may be unwritten gives its value or UNINIT (00 R20). -/
theorem written_cases {α : Type} (o : Option α) :
    (∃ v, o = some v ∧ written o = .ok v) ∨ (o = none ∧ written o = .error .uninit) := by
  cases o with
  | none => exact .inr ⟨rfl, rfl⟩
  | some v => exact .inl ⟨v, rfl, rfl⟩

/-- An ARG that holds a value reads as it. -/
theorem State.arg_of_argIs {s : State} {k : Fin 8} {v : Reg64} (h : s.argIs k v) : s.arg k = .ok v := by
  unfold State.argIs at h
  simp [State.arg, h, written]

/-- The registers of a filter unit are there exactly when all four are written. -/
theorem FilterUnit.regs_eq_ok {f : FilterUnit} {r : FilterRegs} : f.regs = .ok r ↔ f = r.toUnit := by
  obtain ⟨a, k, y, x⟩ := f
  obtain ⟨ra, rk, ry, rx⟩ := r
  cases a <;> cases k <;> cases y <;> cases x <;>
    simp [FilterUnit.regs, FilterRegs.toUnit, written, Bind.bind, Except.bind]

/-- The registers of a resampler unit are there exactly when both are written. -/
theorem ResamplerUnit.regs_eq_ok {u : ResamplerUnit} {r : ResamplerRegs} : u.regs = .ok r ↔ u = r.toUnit := by
  obtain ⟨p, l⟩ := u
  obtain ⟨rp, rl⟩ := r
  cases p <;> cases l <;> simp [ResamplerUnit.regs, ResamplerRegs.toUnit, written, Bind.bind, Except.bind]

/-- A filter unit whose four registers are written has registers. -/
theorem FilterUnit.regs_of_isWritten {f : FilterUnit} (h : f.isWritten = true) : ∃ r, f.regs = .ok r := by
  obtain ⟨a, k, y, x⟩ := f
  cases a <;> cases k <;> cases y <;> cases x <;>
    simp_all [FilterUnit.isWritten, FilterUnit.regs, written, Bind.bind, Except.bind]

/-- A resampler unit whose two registers are written has registers. -/
theorem ResamplerUnit.regs_of_isWritten {r : ResamplerUnit} (h : r.isWritten = true) : ∃ q, r.regs = .ok q := by
  obtain ⟨p, l⟩ := r
  cases p <;> cases l <;> simp_all [ResamplerUnit.isWritten, ResamplerUnit.regs, written, Bind.bind, Except.bind]

/-- The state after a filter step keeps A and TYPE (40 R131). -/
@[simp] theorem filterStep_a (p : Site) (r : FilterRegs) (x : F32) : (filterStep p r x).2.a = r.a := rfl

@[simp] theorem filterStep_kind (p : Site) (r : FilterRegs) (x : F32) : (filterStep p r x).2.kind = r.kind := rfl

/-- A filter run gives one output per input. -/
@[simp] theorem filterRun_length (p : Site) (r : FilterRegs) (xs : List F32) : (filterRun p r xs).1.length = xs.length := by
  induction xs generalizing r with
  | nil => rfl
  | cons x xs ih => simp [filterRun, ih]

/-- A delay step keeps LEN. -/
@[simp] theorem delayStep_len (p : Site) (dr : Draws) (d : Int) (l : DelayLine) (x y : F32) :
    (delayStep p dr d l x y).2.len = l.len := rfl

/-- A delay step advances the cursor by one, modulo LEN (42 R177). -/
@[simp] theorem delayStep_writePos (p : Site) (dr : Draws) (d : Int) (l : DelayLine) (x y : F32) :
    (delayStep p dr d l x y).2.writePos = (l.writePos + 1) % l.len := rfl

/-- Reading an array gives as many elements as were asked for. -/
@[simp] theorem readArray_length (o : ByteOrder) (m : List Host.Cell) (base n : Nat) :
    (readArray o m base n).length = n := by
  induction n generalizing base with
  | zero => rfl
  | succ n ih => simp [readArray, ih]

end Commands

end Sys2Proof.Machine
end

