-- ==== Sys2Proof/Laws/Commands.lean ====
section
/-!
SUPPORT. Laws of the commands: `exec` in one view, every form an effect can take, operands that are ready, and the
registers a block or a delay step uses.
-/

namespace Sys2Proof.Machine

/-- A bind answers exactly when both halves do. -/
theorem bind_eq_ok {α β : Type} {x : Except Cause α} {f : α → Except Cause β} {b : β} (h : (x >>= f) = .ok b) : ∃ a, x = .ok a ∧ f a = .ok b := by
  cases x with
  | error e => cases h
  | ok a => exact ⟨a, rfl, h⟩

/-- A command's own tests and effect, orders 3 to 8 of 60 R237, with its first two tests left out. -/
def commandBody : Instr → State → Except Cause State
  | .prepare, s => prepare s
  | .reset, s => .ok s.clearHistory
  | .processStereo, s => processStereo s
  | .audioBlock, s => audioStart s
  | .fltSetcoef u m, s => fltSetcoef u m s
  | .fltProcess u, s => fltProcess u s
  | .fltReset u, s => .ok (s.setFilter (filterIx u) s.filters[filterIx u].cleared)
  | .rsDownsample u, s => rsDownsample u s
  | .rsUpsample u, s => rsUpsample u s
  | .rsReset u, s => .ok (s.setResampler (resamplerIx u) ResamplerUnit.cleared)
  | .dlyStep, s => dlyStep s
  | .peakUpdate u, s => peakUpdate u s
  | .peakRead u, s => .ok (s.setRes0 (resF32 s.peaks[peakIx u]))
  | .didxWrite, s => didxWrite s
  | .didxRead, s => didxRead s
  | .statusRead, s => .ok (s.setRes0 (s.statusWord.setWidth 64))
  | .testctlWrite, s => testctlWrite s

/-- `exec` in one view: unless it carries a block on, a command runs its own tests and effect in the shared order. -/
theorem exec_eq (i : Instr) (s : State) (h : ¬ s.resumes i) : exec i s = runCommand i s (commandBody i s) := by
  cases i <;> try rfl
  show execAudioBlock s = _
  unfold execAudioBlock
  split <;> try rfl
  rename_i ha hb
  exact absurd ⟨rfl, ha, by simp [hb]⟩ h

/-- An AUDIO_BLOCK whose block is in progress does the next sub-step. -/
theorem exec_of_resumes {s : State} {b} (ha : s.active = .p0) (hb : s.block = some b) : exec .audioBlock s = .next (audioSubStep b s) := by
  show execAudioBlock s = _
  unfold execAudioBlock
  split <;> simp_all

/-- A command that passes the first two tests and carries no block on does its own tests and effect. -/
theorem exec_of_accepts {i : Instr} {s : State} (h : ¬ s.resumes i) (ha : s.accepts i) : exec i s = settle i s (commandBody i s) := by
  rw [exec_eq i s h, runCommand_of_accepts ha]

/-- Only AUDIO_BLOCK is ever carried on. -/
theorem not_resumes {i s} (h : i ≠ .audioBlock) : ¬ State.resumes s i := fun ⟨a, _⟩ => h a

/-- Everything the effect of a command can be: one case per form of effect. -/
theorem commandBody_cases {i : Instr} {s u : State} (hu : commandBody i s = .ok u) (P : State → Prop)
  (h1 : ∀ fs m, i = .prepare → P (s.prepareWith fs (bufferLength m)))
  (h2 : i = .reset → P s.clearHistory)
  (h3 : i = .processStereo → s.len = 0 → P s)
  (h4 : ∀ a ms e, i = .processStereo → s.engine = .ok e → P (s.finishBlock a (s.blockOutput a ms e)))
  (h5 : ∀ a idx, i = .audioBlock → s.stereoArgs = .ok a → P { s with
    block := some { inL := a.inL, inR := a.inR, outL := a.outL, outR := a.outR, n := a.n, idx := idx
                    stage := firstStage a.n } })
  (h6 : ∀ un f (mode : FilterType) fs fc, i = .fltSetcoef un mode → f = { s.filters[filterIx un] with a := some (coefFn s.params.coef fs fc), kind := some mode } → P (s.setFilter (filterIx un) f))
  (h7 : ∀ un r x, i = .fltProcess un → s.filters[filterIx un].regs = .ok r → P ((s.setFilter (filterIx un) (filterStep [s.free] r x).2.toUnit).setRes0 (resF32 (filterStep [s.free] r x).1)).tick)
  (h8 : ∀ un, i = .fltReset un → P (s.setFilter (filterIx un) s.filters[filterIx un].cleared))
  (h9 : ∀ un o ys q, (i = .rsDownsample un ∨ i = .rsUpsample un) → P (s.finishResample (resamplerIx un) o ys q))
  (h10 : ∀ un, i = .rsReset un → P (s.setResampler (resamplerIx un) ResamplerUnit.cleared))
  (h11 : ∀ l d x y, i = .dlyStep → s.len ≠ 0 → s.delayLine = .ok l →
     P (((s.setDelayLine (delayStep [s.free] (drawsAt s.norand [s.free]) d l x y).2).setRes0 (resF32 (delayStep [s.free] (drawsAt s.norand [s.free]) d l x y).1.1)).setRes1 (resF32 (delayStep [s.free] (drawsAt s.norand [s.free]) d l x y).1.2)).tick)
  (h12 : ∀ un x, i = .peakUpdate un → P (s.peakUpdate (peakIx un) x))
  (h13 : ∀ v, (i = .statusRead ∨ i = .didxRead ∨ ∃ un, i = .peakRead un) → P (s.setRes0 v))
  (h14 : ∀ x, i = .didxWrite → P { s with delayIndex := some x })
  (h15 : ∀ v, i = .testctlWrite → v.extractLsb' 1 31 = 0#31 → P { s with testctl := v }) : P u := by
  cases i <;> simp only [commandBody] at hu
  case prepare =>
    obtain ⟨a, -, hu⟩ := bind_eq_ok hu
    obtain ⟨ix, -, hu⟩ := bind_eq_ok hu
    split at hu; · cases hu
    split at hu; · cases hu
    split at hu; · cases hu
    cases hu; exact h1 _ _ rfl
  case processStereo =>
    unfold processStereo at hu
    split at hu
    · cases hu; exact h3 rfl ‹_›
    obtain ⟨a, -, hu⟩ := bind_eq_ok hu
    obtain ⟨ix, -, hu⟩ := bind_eq_ok hu
    obtain ⟨e, he, hu⟩ := bind_eq_ok hu
    cases hu; exact h4 _ _ _ rfl he
  case audioBlock =>
    obtain ⟨a, ha, hu⟩ := bind_eq_ok hu
    obtain ⟨ix, -, hu⟩ := bind_eq_ok hu
    cases hu; exact h5 _ _ rfl ha
  case dlyStep =>
    obtain ⟨a, -, hu⟩ := bind_eq_ok hu
    obtain ⟨ix, -, hu⟩ := bind_eq_ok hu
    obtain ⟨ix, -, hu⟩ := bind_eq_ok hu
    split at hu; · cases hu
    obtain ⟨ix, hl, hu⟩ := bind_eq_ok hu
    cases hu; exact h11 _ _ _ _ rfl ‹_› hl
  case fltSetcoef =>
    obtain ⟨a, -, hu⟩ := bind_eq_ok hu
    obtain ⟨ix, -, hu⟩ := bind_eq_ok hu
    split at hu; · cases hu
    cases hu; exact h6 _ _ _ _ _ rfl rfl
  case fltProcess =>
    obtain ⟨a, -, hu⟩ := bind_eq_ok hu
    obtain ⟨ix, hr, hu⟩ := bind_eq_ok hu
    cases hu; exact h7 _ _ _ rfl hr
  case rsDownsample =>
    obtain ⟨a, -, hu⟩ := bind_eq_ok hu
    obtain ⟨ix, -, hu⟩ := bind_eq_ok hu
    cases hu; exact h9 _ _ _ _ (.inl rfl)
  case rsUpsample =>
    obtain ⟨a, -, hu⟩ := bind_eq_ok hu
    obtain ⟨ix, -, hu⟩ := bind_eq_ok hu
    cases hu; exact h9 _ _ _ _ (.inr rfl)
  case peakUpdate =>
    obtain ⟨a, -, hu⟩ := bind_eq_ok hu
    cases hu; exact h12 _ _ rfl
  case didxWrite =>
    obtain ⟨a, -, hu⟩ := bind_eq_ok hu
    split at hu; · cases hu
    cases hu; exact h14 _ rfl
  case didxRead =>
    obtain ⟨a, -, hu⟩ := bind_eq_ok hu
    cases hu; exact h13 _ (by simp)
  case testctlWrite =>
    obtain ⟨a, -, hu⟩ := bind_eq_ok hu
    split at hu; · cases hu
    cases hu; exact h15 _ rfl (by simp_all)
  case reset => cases hu; exact h2 rfl
  case fltReset => cases hu; exact h8 _ rfl
  case rsReset => cases hu; exact h10 _ rfl
  case peakRead => cases hu; exact h13 _ (by simp)
  case statusRead => cases hu; exact h13 _ (by simp)

/-- What a PREPARE that completes has tested and leaves. -/
theorem prepare_eq_ok {s u : State} (hu : commandBody .prepare s = .ok u) : ∃ fs m, 1 ≤ m ∧ isFinite64 fs = true ∧ gt64 fs minHostRate = true ∧
   bufferLength m ≤ s.params.delayRamWords ∧ u = s.prepareWith fs (bufferLength m) := by
  obtain ⟨fs, -, hu⟩ := bind_eq_ok hu
  obtain ⟨m, -, hu⟩ := bind_eq_ok hu
  split at hu; · cases hu
  rename_i h1
  split at hu; · cases hu
  rename_i h2
  split at hu; · cases hu
  rename_i h3
  cases hu
  simp at h1
  exact ⟨fs, m, by omega, h1.1, h1.2, by omega, rfl⟩

/-- The length PREPARE computes is 24 words per millisecond. -/
theorem bufferLength_eq {m : Int} (h : 1 ≤ m) : (bufferLength m : Int) = 24 * m := by
  unfold bufferLength
  have : m.toNat * 24000 / 1000 = 24 * m.toNat := by omega
  rw [this]; omega

/-- A command that P1 does not accept is issued on P0 when it is accepted. -/
theorem active_of_accepts {s : State} {i} (h : s.accepts i) (hi : i.onControlPort = false) : s.active = .p0 := by
  cases ha : s.active
  · rfl
  · have := h.2.1; simp [ha, Instr.acceptedOn, hi] at this

/-- Writing RES0 for a command on P0. -/
theorem setRes0_of_p0 (s : State) (hp : s.active = .p0) (v) : s.setRes0 v = { s with p0 := { s.p0 with res0 := some v } } := by
  simp [State.setRes0, hp, State.setPort, State.port]

/-- An operand of type `addr` whose ARG holds a value. -/
theorem argAddr_of_argIs {s : State} {k v} (h : s.argIs k v) : s.argAddr k = .ok v.toNat := by simp [State.argAddr, State.arg_of_argIs h, Except.map]

/-- An operand of type `i32` whose ARG holds a value. -/
theorem argI32_of_argIs {s : State} {k v} (h : s.argIs k v) : s.argI32 k = .ok (lowHalf v).toInt := by simp [State.argI32, State.arg_of_argIs h, Except.map]

/-- An operand of type `f32` whose ARG holds a value. -/
theorem argF32_of_argIs {s : State} {k v} (h : s.argIs k v) : s.argF32 k = .ok (lowHalf v) := by simp [State.argF32, State.arg_of_argIs h, Except.map]

/-- An operand of type `f64` whose ARG holds a value. -/
theorem argF64_of_argIs {s : State} {k v} (h : s.argIs k v) : s.argF64 k = .ok v := by simp [State.argF64, State.arg_of_argIs h]

/-- `MemCheck` passes or raises MEMORY. -/
theorem memCheck_cases {b n : Nat} : memCheck b n = .ok () ∨ memCheck b n = .error .memory := by
  unfold memCheck; split; · exact .inr rfl
  split; · exact .inr rfl
  exact .inl rfl

/-- When `MemCheck` raises MEMORY. -/
theorem memCheck_eq_memory {b n : Nat} (h : b % 4 ≠ 0 ∨ (0 < n ∧ 2 ^ 64 - 1 < b + 4 * n - 1)) : memCheck b n = .error .memory := by
  unfold memCheck
  split; · rfl
  rw [if_pos]
  rcases h with h | h
  · contradiction
  · unfold hostBytes; omega

/-- Arrays that are ready pass `StereoCheck`. -/
theorem stereoArgs_of_ready {s : State} {a} (h : s.stereoReady a) : s.stereoArgs = .ok a := by
  obtain ⟨h0, h1, h2, h3, h4, m0, m1, m2, m3, d⟩ := h
  have : (a.n : Int).toNat = a.n := Int.toNat_natCast _
  have hn : ¬ ((a.n : Int) < 0) := by omega
  simp [State.stereoArgs, h0, h1, h2, h3, h4, stereoCheck, this, m0, m1, m2, m3, d, Bind.bind, Except.bind]

/-- Operands that are ready pass every test of a resampler command. -/
theorem resampleArgs_of_ready {s : State} {a x y} (h : s.resampleReady a x y) : s.resampleArgs = .ok a := by
  obtain ⟨h0, h1, h2, h3, h4, h5, m0, m1, d, p, q, e, r⟩ := h
  rw [e] at r
  simp [State.resampleArgs, h0, h1, h2, h3, h4, h5, m0, m1, d, p, q, r, Bind.bind, Except.bind]
  rw [if_neg (by omega), ← e]

/-- Putting filter registers back and reading them. -/
theorem regs_of_toUnit (r : FilterRegs) : r.toUnit.regs = .ok r := FilterUnit.regs_eq_ok.2 rfl

/-- Putting resampler registers back and reading them. -/
theorem resamplerRegs_of_toUnit (r : ResamplerRegs) : r.toUnit.regs = .ok r := ResamplerUnit.regs_eq_ok.2 rfl

/-- What the delay step's registers are when all are written. -/
theorem delayLine_eq_ok {s : State} {l} (h : s.delayLine = .ok l) : l.len = s.len ∧ s.writePos = some l.writePos ∧ l.bufL = s.bufL ∧ l.bufR = s.bufR ∧
   s.filters[4] = l.hpL.toUnit ∧ s.filters[5] = l.hpR.toUnit ∧ s.filters[6] = l.lpL.toUnit ∧ s.filters[7] = l.lpR.toUnit := by
  obtain ⟨_, h4, h⟩ := bind_eq_ok h
  obtain ⟨_, h5, h⟩ := bind_eq_ok h
  obtain ⟨_, h6, h⟩ := bind_eq_ok h
  obtain ⟨_, h7, h⟩ := bind_eq_ok h
  obtain ⟨_, hw, h⟩ := bind_eq_ok h
  cases h
  exact ⟨rfl, written_eq_ok.1 hw, rfl, rfl, FilterUnit.regs_eq_ok.1 h4, FilterUnit.regs_eq_ok.1 h5, FilterUnit.regs_eq_ok.1 h6, FilterUnit.regs_eq_ok.1 h7⟩

/-- The host rate and the delay line of the registers a block uses. -/
theorem engine_eq_ok {s : State} {e} (h : s.engine = .ok e) : s.hostRate = some e.hostRate ∧ s.delayLine = .ok e.line := by
  obtain ⟨hr, h0, h⟩ := bind_eq_ok h
  obtain ⟨_, _, h⟩ := bind_eq_ok h
  obtain ⟨_, _, h⟩ := bind_eq_ok h
  obtain ⟨_, _, h⟩ := bind_eq_ok h
  obtain ⟨_, _, h⟩ := bind_eq_ok h
  obtain ⟨_, _, h⟩ := bind_eq_ok h
  obtain ⟨_, _, h⟩ := bind_eq_ok h
  obtain ⟨_, _, h⟩ := bind_eq_ok h
  obtain ⟨_, _, h⟩ := bind_eq_ok h
  obtain ⟨l, hl, h⟩ := bind_eq_ok h
  cases h
  exact ⟨written_eq_ok.1 h0, hl⟩

/-- The units a block's registers come from, each in its place. -/
theorem engine_units {s : State} {e} (h : s.engine = .ok e) :
    s.filters = #v[e.aaL.toUnit, e.aaR.toUnit, e.recL.toUnit, e.recR.toUnit,
                   e.line.hpL.toUnit, e.line.hpR.toUnit, e.line.lpL.toUnit, e.line.lpR.toUnit] ∧
    s.resamplers = #v[e.downL.toUnit, e.downR.toUnit, e.upL.toUnit, e.upR.toUnit] := by
  obtain ⟨-, -, -, -, h4, h5, h6, h7⟩ := delayLine_eq_ok (engine_eq_ok h).2
  obtain ⟨_, _, h⟩ := bind_eq_ok h
  obtain ⟨_, h0, h⟩ := bind_eq_ok h
  obtain ⟨_, h1, h⟩ := bind_eq_ok h
  obtain ⟨_, h2, h⟩ := bind_eq_ok h
  obtain ⟨_, h3, h⟩ := bind_eq_ok h
  obtain ⟨_, r0, h⟩ := bind_eq_ok h
  obtain ⟨_, r1, h⟩ := bind_eq_ok h
  obtain ⟨_, r2, h⟩ := bind_eq_ok h
  obtain ⟨_, r3, h⟩ := bind_eq_ok h
  obtain ⟨l, hl, h⟩ := bind_eq_ok h
  cases h
  have f0 := FilterUnit.regs_eq_ok.1 h0
  have f1 := FilterUnit.regs_eq_ok.1 h1
  have f2 := FilterUnit.regs_eq_ok.1 h2
  have f3 := FilterUnit.regs_eq_ok.1 h3
  have u0 := ResamplerUnit.regs_eq_ok.1 r0
  have u1 := ResamplerUnit.regs_eq_ok.1 r1
  have u2 := ResamplerUnit.regs_eq_ok.1 r2
  have u3 := ResamplerUnit.regs_eq_ok.1 r3
  refine ⟨Vector.ext fun i hi => ?_, Vector.ext fun i hi => ?_⟩
  · match i, hi with
    | 0, _ => exact f0
    | 1, _ => exact f1
    | 2, _ => exact f2
    | 3, _ => exact f3
    | 4, _ => exact h4
    | 5, _ => exact h5
    | 6, _ => exact h6
    | 7, _ => exact h7
  · match i, hi with
    | 0, _ => exact u0
    | 1, _ => exact u1
    | 2, _ => exact u2
    | 3, _ => exact u3

/-- The delay line reads back as it was put. -/
theorem delayLine_setDelayLine (s : State) (l : DelayLine) (h : l.len = s.len) : (s.setDelayLine l).delayLine = .ok l := by
  simp [State.delayLine, State.setDelayLine, regs_of_toUnit, written, ← h, Bind.bind, Except.bind]

/-- The engine reads back as it was put. -/
theorem engine_setEngine (s : State) (e : Engine) (hr : s.hostRate = some e.hostRate) (h : e.line.len = s.len) : (s.setEngine e).engine = .ok e := by
  simp [State.engine, State.delayLine, State.setEngine, State.setDelayLine, regs_of_toUnit, resamplerRegs_of_toUnit, written, hr, ← h, Bind.bind, Except.bind]

/-- The engine depends on seven fields only. -/
theorem engine_congr {s t : State} (h1 : t.hostRate = s.hostRate) (h2 : t.filters = s.filters) (h3 : t.resamplers = s.resamplers) (h4 : t.len = s.len) (h5 : t.writePos = s.writePos) (h6 : t.bufL = s.bufL) (h7 : t.bufR = s.bufR) : t.engine = s.engine := by
  unfold State.engine State.delayLine; rw [h1, h2, h3, h4, h5, h6, h7]

/-- Every filter unit is written. -/
theorem filters_all_iff {s : State} : s.filters.all FilterUnit.isWritten = true ↔ ∀ i : Fin 8, s.filters[i].isWritten = true := by
  rw [Vector.all_eq_true]; exact ⟨fun h i => h i i.isLt, fun h i hi => h ⟨i, hi⟩⟩

/-- Every resampler unit is written. -/
theorem resamplers_all_iff {s : State} : s.resamplers.all ResamplerUnit.isWritten = true ↔ ∀ i : Fin 4, s.resamplers[i].isWritten = true := by
  rw [Vector.all_eq_true]; exact ⟨fun h i => h i i.isLt, fun h i hi => h ⟨i, hi⟩⟩

/-- The session's invariant as a proposition. -/
theorem sessionOk_iff {s : State} : s.sessionOk = true ↔ s.len ≤ s.params.delayRamWords ∧ (s.len = 0 ∨
   (24 ≤ s.len ∧ (∃ w, s.writePos = some w ∧ w < s.len) ∧ (∃ r, s.hostRate = some r ∧ rateAccepted r = true) ∧
    (∀ i : Fin 8, s.filters[i].isWritten = true) ∧ ∀ i : Fin 4, s.resamplers[i].isWritten = true)) := by
  simp only [State.sessionOk, Bool.and_eq_true, Bool.or_eq_true, decide_eq_true_eq, filters_all_iff, resamplers_all_iff, and_assoc]
  have a : (s.writePos.any fun w => decide (w < s.len)) = true ↔ ∃ w, s.writePos = some w ∧ w < s.len := by cases s.writePos <;> simp
  have b : (s.hostRate.any rateAccepted) = true ↔ ∃ w, s.hostRate = some w ∧ rateAccepted w = true := by cases s.hostRate <;> simp
  rw [a, b]

/-- While LEN > 0 in a good session, every register a block uses is written, so a block cannot fault (42 R180). -/
theorem engine_of_sessionOk {s : State} (h : s.sessionOk = true) (hl : 0 < s.len) : ∃ e, s.engine = .ok e := by
  simp only [State.sessionOk, Bool.and_eq_true, Bool.or_eq_true, decide_eq_true_eq] at h
  obtain ⟨-, h⟩ := h
  rcases h with h | ⟨⟨⟨⟨h1, h2⟩, h3⟩, h4⟩, h5⟩
  · omega
  rw [Vector.all_eq_true] at h4 h5
  have f : ∀ i : Fin 8, ∃ r, (s.filters[i]).regs = .ok r := fun i => FilterUnit.regs_of_isWritten (h4 i i.isLt)
  have g : ∀ i : Fin 4, ∃ r, (s.resamplers[i]).regs = .ok r := fun i => ResamplerUnit.regs_of_isWritten (h5 i i.isLt)
  obtain ⟨f0, k0⟩ := f 0; obtain ⟨f1, k1⟩ := f 1; obtain ⟨f2, k2⟩ := f 2; obtain ⟨f3, k3⟩ := f 3
  obtain ⟨f4, k4⟩ := f 4; obtain ⟨f5, k5⟩ := f 5; obtain ⟨f6, k6⟩ := f 6; obtain ⟨f7, k7⟩ := f 7
  obtain ⟨g0, l0⟩ := g 0; obtain ⟨g1, l1⟩ := g 1; obtain ⟨g2, l2⟩ := g 2; obtain ⟨g3, l3⟩ := g 3
  obtain ⟨w, hw⟩ : ∃ w, s.writePos = some w := by cases hq : s.writePos <;> simp_all
  obtain ⟨r, hr⟩ : ∃ w, s.hostRate = some w := by cases hq : s.hostRate <;> simp_all
  change s.filters[0].regs = _ at k0
  change s.filters[1].regs = _ at k1
  change s.filters[2].regs = _ at k2
  change s.filters[3].regs = _ at k3
  change s.filters[4].regs = _ at k4
  change s.filters[5].regs = _ at k5
  change s.filters[6].regs = _ at k6
  change s.filters[7].regs = _ at k7
  change s.resamplers[0].regs = _ at l0
  change s.resamplers[1].regs = _ at l1
  change s.resamplers[2].regs = _ at l2
  change s.resamplers[3].regs = _ at l3
  simp [State.engine, State.delayLine, k0, k1, k2, k3, k4, k5, k6, k7, l0, l1, l2, l3, hw, hr, written, Bind.bind, Except.bind]

end Sys2Proof.Machine
end

