-- ==== Sys2Proof/Laws/Float.lean ====
section
/-!
SUPPORT. Laws of the floating-point operations: signs and magnitudes of packed values, and how far rounding goes.
-/

namespace Sys2Proof.Machine

/-- The NaN of an operation is a NaN. -/
theorem nan32_isNan (p : Site) : isNan32 (nan32 p) = true := by
  unfold nan32; split
  · assumption
  · decide

/-- The NaN of an operation is a NaN. -/
theorem nan64_isNan (p : Site) : isNan64 (nan64 p) = true := by
  unfold nan64; split
  · assumption
  · decide

/-- Rounding goes no further than infinity. -/
theorem roundMag_le (f : Fmt) (n d : Nat) : roundMag f n d ≤ f.infMag := Nat.min_le_right _ _

/-- Sign and magnitude of a packed binary64. -/
theorem packBits64 (neg : Bool) {mag : Nat} (h : mag ≤ fmt64.infMag) : packBits fmt64 neg mag < 2^64 ∧ magOf fmt64 (packBits fmt64 neg mag) = mag := by
  have hi : fmt64.infMag < fmt64.signBit := by decide
  have hs : fmt64.signBit = 2^63 := by decide
  unfold packBits magOf
  split
  · rw [Nat.add_mod_left, Nat.mod_eq_of_lt (by omega)]; exact ⟨by omega, rfl⟩
  · rw [Nat.mod_eq_of_lt (by omega)]; exact ⟨by omega, rfl⟩

/-- Sign and magnitude of a packed binary32. -/
theorem packBits32 (neg : Bool) {mag : Nat} (h : mag ≤ fmt32.infMag) : (BitVec.ofNat 32 (packBits fmt32 neg mag)).toNat = packBits fmt32 neg mag ∧ magOf fmt32 (packBits fmt32 neg mag) = mag ∧ isNeg fmt32 (packBits fmt32 neg mag) = neg := by
  have hi : fmt32.infMag < fmt32.signBit := by decide
  have hs : fmt32.signBit = 2^31 := by decide
  have hp : packBits fmt32 neg mag < 2^32 := by unfold packBits; split <;> omega
  refine ⟨by simpa using hp, ?_, ?_⟩
  · unfold packBits magOf
    split
    · rw [Nat.add_mod_left, Nat.mod_eq_of_lt (by omega)]
    · rw [Nat.mod_eq_of_lt (by omega)]
  · unfold isNeg packBits
    cases neg <;> simp <;> omega

/-- Rounding to nearest does not pass a whole number. -/
theorem nearestEven_le {num den b : Nat} (hd : 0 < den) (h : num ≤ b * den) : nearestEven num den ≤ b := by
  unfold nearestEven
  dsimp only
  have h1 := Nat.div_add_mod num den
  have hq : num / den ≤ b := by rw [← Nat.mul_div_cancel b hd]; exact Nat.div_le_div_right h
  split
  · rename_i hc
    rcases Nat.lt_or_ge (num / den) b with hlt | hge
    · omega
    · have : num / den = b := by omega
      rw [this] at h1 hc
      have : num % den = 0 := by rw [Nat.mul_comm] at h1; omega
      omega
  · exact hq

/-- Rounding does not pass a representable binary32 value. -/
theorem roundMag_le_of_le {num den mag : Nat} (hd : 0 < den) (h : num ≤ units fmt32 mag * den) : roundMag fmt32 num den ≤ mag := by
  unfold roundMag
  refine (Nat.min_le_left _ _).trans ?_
  have hf : fmt32.fracBits = 23 := rfl
  rw [hf]
  have hQ : num / den ≤ units fmt32 mag := by rw [← Nat.mul_div_cancel (units fmt32 mag) hd]; exact Nat.div_le_div_right h
  unfold units at h hQ
  rw [hf] at h hQ
  dsimp only at h hQ
  by_cases he : mag / 2^23 = 0
  · rw [if_pos he] at h hQ
    have hm : mag < 2^23 := by
      rcases (Nat.div_eq_zero_iff).1 he with h | h
      · simp at h
      · exact h
    have : Nat.log2 (num/den) ≤ 22 := by
      rcases Nat.eq_zero_or_pos (num/den) with h0 | h0
      · rw [h0]; simp
      · have := (Nat.log2_lt (n := num/den) (k := 23) (by omega)).2 (by omega); omega
    rw [show Nat.log2 (num/den) - 23 = 0 by omega]
    simpa using nearestEven_le hd h
  · rw [if_neg he] at h hQ
    obtain ⟨e, hE⟩ : ∃ e, mag / 2^23 = e + 1 := ⟨mag/2^23 - 1, by omega⟩
    rw [hE] at h hQ
    simp only [Nat.add_sub_cancel] at h hQ
    have hmag := Nat.div_add_mod mag (2^23)
    have hfr := Nat.mod_lt mag (by decide : 2^23 > 0)
    have hlog : Nat.log2 (num/den) - 23 ≤ e := by
      rcases Nat.eq_zero_or_pos (num/den) with h0 | h0
      · rw [h0]; simp
      · have : num / den < 2^(24+e) := by
          calc num/den ≤ _ := hQ
            _ < 2^24 * 2^e := Nat.mul_lt_mul_of_pos_right (by omega) (Nat.two_pow_pos e)
            _ = 2^(24+e) := (Nat.pow_add 2 24 e).symm
        have := (Nat.log2_lt (n := num/den) (k := 24+e) (by omega)).2 this; omega
    generalize hsh : Nat.log2 (num/den) - 23 = sh at *
    rcases Nat.lt_or_ge sh e with hlt | hge
    · have hlt2 : num / den < 2^(24+sh) := by
        rcases Nat.eq_zero_or_pos (num/den) with h0 | h0
        · rw [h0]; positivity
        · exact (Nat.log2_lt (by omega)).1 (by omega)
      have : num ≤ 2^24 * (den * 2^sh) := by
        have := Nat.lt_mul_of_div_lt hlt2 hd
        rw [Nat.pow_add] at this
        calc num ≤ _ := this.le
          _ = _ := by ring
      have := nearestEven_le (Nat.mul_pos hd (Nat.two_pow_pos sh)) this
      rw [hE] at hmag
      omega
    · have : sh = e := by omega
      subst this
      have : num ≤ (2^23 + mag % 2^23) * (den * 2^sh) := by
        calc num ≤ _ := h
          _ = _ := by ring
      have := nearestEven_le (Nat.mul_pos hd (Nat.two_pow_pos sh)) this
      rw [hE] at hmag
      omega

/-- A binary32 value is at least zero. -/
theorem ge32_zero_iff {a : F32} : ge32 a 0#32 = true ↔ isNan32 a = false ∧ (isNeg fmt32 a.toNat = true → magOf fmt32 a.toNat = 0) := by
  unfold ge32 geBits isNan32
  simp only [Bool.and_eq_true, Bool.not_eq_true', decide_eq_true_eq]
  have h0 : isNanBits fmt32 (0#32).toNat = false := by decide
  have h1 : orderKey fmt32 (0#32).toNat = 0 := by decide
  rw [h0, h1]
  unfold orderKey
  cases isNeg fmt32 a.toNat <;> simp

end Sys2Proof.Machine
end

