-- ==== Sys2Proof/Laws/PerInstr.lean ====
section
/-!
SUPPORT. Laws stated per command: the word of a command holds its four fields where 30 R100 puts them.
-/

namespace Sys2Proof.Laws.Fields

/-- The encoder puts OPC, UNIT, MODE and RSVD = 0 where 30 R100 says (30 R100, R102). -/
def Statement (i : Instr) : Prop :=
  opcField (encode i) = i.opc ∧ unitField (encode i) = i.unit ∧ modeField (encode i) = i.mode ∧
    rsvdField (encode i) = 0#16

/-- Where the fields of an appended word are. -/
theorem fields_append (a : BitVec 8) (b c : BitVec 4) (d : BitVec 16) :
    opcField (a ++ b ++ c ++ d) = a ∧ unitField (a ++ b ++ c ++ d) = b ∧ modeField (a ++ b ++ c ++ d) = c ∧
      rsvdField (a ++ b ++ c ++ d) = d := by
  refine ⟨?_, ?_, ?_, ?_⟩ <;>
    (apply BitVec.eq_of_getLsbD_eq
     intro k hk
     simp only [opcField, unitField, modeField, rsvdField, BitVec.getLsbD_extractLsb', BitVec.getLsbD_append, hk,
       decide_true, Bool.true_and]
     repeat' split
     all_goals first | omega | (congr 1; omega))

/-- Every command's word holds its fields. -/
theorem holds (i : Instr) : Statement i := fields_append i.opc i.unit i.mode 0#16

theorem prepare : Statement (.prepare) := holds _
theorem reset : Statement (.reset) := holds _
theorem processStereo : Statement (.processStereo) := holds _
theorem audioBlock : Statement (.audioBlock) := holds _
theorem fltSetcoef (u : BitVec 4) (m : FilterType) : Statement (.fltSetcoef u m) := holds _
theorem fltProcess (u : BitVec 4) : Statement (.fltProcess u) := holds _
theorem fltReset (u : BitVec 4) : Statement (.fltReset u) := holds _
theorem rsDownsample (u : BitVec 4) : Statement (.rsDownsample u) := holds _
theorem rsUpsample (u : BitVec 4) : Statement (.rsUpsample u) := holds _
theorem rsReset (u : BitVec 4) : Statement (.rsReset u) := holds _
theorem dlyStep : Statement (.dlyStep) := holds _
theorem peakUpdate (u : BitVec 4) : Statement (.peakUpdate u) := holds _
theorem peakRead (u : BitVec 4) : Statement (.peakRead u) := holds _
theorem didxWrite : Statement (.didxWrite) := holds _
theorem didxRead : Statement (.didxRead) := holds _
theorem statusRead : Statement (.statusRead) := holds _
theorem testctlWrite : Statement (.testctlWrite) := holds _

end Sys2Proof.Laws.Fields
end

