-- ==== Sys2Proof/Laws/Step.lean ====
section
/-!
SUPPORT. Laws of a step: what no command changes, and everything a step of a port or of the whole machine can be.
-/

namespace Sys2Proof.Machine

/-- What no command changes: the parameters, the host's further acts, every ARG and CMD register and the active port (10 R32). -/
structure Keeps (s t : State) : Prop where
  params : t.params = s.params
  inputs : t.inputs = s.inputs
  a0 : t.p0.args = s.p0.args
  a1 : t.p1.args = s.p1.args
  c0 : t.p0.cmd = s.p0.cmd
  c1 : t.p1.cmd = s.p1.cmd
  act : t.active = s.active

theorem keeps_faultEntry (s : State) (p w c) : Keeps s (s.faultEntry p w c) := by constructor <;> rfl

theorem keeps_refuse (s : State) (w) : Keeps s (s.refuse w) := by constructor <;> rfl

theorem Keeps.trans {a b c : State} (h : Keeps a b) (k : Keeps b c) : Keeps a c :=
 ⟨k.params.trans h.params, k.inputs.trans h.inputs, k.a0.trans h.a0, k.a1.trans h.a1, k.c0.trans h.c0, k.c1.trans h.c1, k.act.trans h.act⟩

theorem Keeps.refl (a : State) : Keeps a a := by constructor <;> rfl

theorem keeps_setRes0 (s : State) (v) : Keeps s (s.setRes0 v) := by
  unfold State.setRes0; cases h : s.active <;> constructor <;> simp [h, State.setPort, State.port]

theorem keeps_setRes1 (s : State) (v) : Keeps s (s.setRes1 v) := by
  unfold State.setRes1; cases h : s.active <;> constructor <;> simp [h, State.setPort, State.port]

theorem keeps_tick (s : State) : Keeps s s.tick := by constructor <;> rfl

theorem keeps_runCommand {i : Instr} {s t : State} {body} (hb : ∀ t, body = .ok t → Keeps s t) (h : runCommand i s body = .next t) : Keeps s t := by
  rcases runCommand_cases i s body with ⟨h', -⟩ | ⟨h', -⟩ | ⟨-, u, hu, h'⟩ | ⟨-, c, -, h'⟩ <;> rw [h'] at h <;> cases h
  exacts [keeps_faultEntry _ _ _ _, keeps_refuse _ _, hb _ hu, keeps_faultEntry _ _ _ _]

theorem keeps_stereoBlock {s t : State} {a ms} (h : s.stereoBlock a ms = .ok t) : Keeps s t := by
  obtain ⟨e, he, h⟩ := bind_eq_ok h
  cases h; constructor <;> rfl

theorem keeps_audioSubStep (b : Block) (s : State) : Keeps s (audioSubStep b s) := by
  unfold audioSubStep
  split
  · constructor <;> rfl
  · split
    · rename_i t h
      unfold State.processBlock at h
      split at h
      · exact (keeps_stereoBlock h).trans (by constructor <;> rfl)
      · cases h; constructor <;> rfl
    · constructor <;> rfl
  · constructor <;> rfl

/-- No command changes the parameters, the host's further acts, an ARG, a CMD or the active port. -/
theorem exec_keeps {i : Instr} {s t : State} (h : exec i s = .next t) : Keeps s t := by
  cases i
  case audioBlock =>
    change execAudioBlock s = _ at h
    unfold execAudioBlock at h
    split at h
    · cases h; exact keeps_audioSubStep _ _
    all_goals
      refine keeps_runCommand ?_ h
      intro t ht
      obtain ⟨a, -, ht⟩ := bind_eq_ok ht
      obtain ⟨ix, -, ht⟩ := bind_eq_ok ht
      cases ht; constructor <;> rfl
  all_goals
    refine keeps_runCommand ?_ h
    intro t ht
  case prepare =>
    obtain ⟨a, -, ht⟩ := bind_eq_ok ht
    obtain ⟨ix, -, ht⟩ := bind_eq_ok ht
    split at ht; · cases ht
    split at ht; · cases ht
    split at ht; · cases ht
    cases ht; constructor <;> rfl
  case reset => cases ht; constructor <;> rfl
  case processStereo =>
    unfold processStereo at ht
    split at ht
    · cases ht; exact Keeps.refl _
    obtain ⟨a, -, ht⟩ := bind_eq_ok ht
    obtain ⟨ix, -, ht⟩ := bind_eq_ok ht
    exact keeps_stereoBlock ht
  case fltSetcoef =>
    obtain ⟨a, -, ht⟩ := bind_eq_ok ht
    obtain ⟨ix, -, ht⟩ := bind_eq_ok ht
    split at ht; · cases ht
    cases ht; constructor <;> rfl
  case fltProcess =>
    obtain ⟨a, -, ht⟩ := bind_eq_ok ht
    obtain ⟨ix, -, ht⟩ := bind_eq_ok ht
    cases ht
    refine Keeps.trans (Keeps.trans ?_ (keeps_setRes0 _ _)) (keeps_tick _)
    constructor <;> rfl
  case fltReset => cases ht; constructor <;> rfl
  case rsDownsample =>
    obtain ⟨a, -, ht⟩ := bind_eq_ok ht
    obtain ⟨ix, -, ht⟩ := bind_eq_ok ht
    cases ht
    unfold State.finishResample
    refine Keeps.trans (Keeps.trans ?_ (keeps_setRes0 _ _)) (keeps_tick _)
    constructor <;> rfl
  case rsUpsample =>
    obtain ⟨a, -, ht⟩ := bind_eq_ok ht
    obtain ⟨ix, -, ht⟩ := bind_eq_ok ht
    cases ht
    unfold State.finishResample
    refine Keeps.trans (Keeps.trans ?_ (keeps_setRes0 _ _)) (keeps_tick _)
    constructor <;> rfl
  case rsReset => cases ht; constructor <;> rfl
  case dlyStep =>
    obtain ⟨a, -, ht⟩ := bind_eq_ok ht
    obtain ⟨b, -, ht⟩ := bind_eq_ok ht
    obtain ⟨c, -, ht⟩ := bind_eq_ok ht
    split at ht; · cases ht
    obtain ⟨d, -, ht⟩ := bind_eq_ok ht
    cases ht
    refine Keeps.trans (Keeps.trans (Keeps.trans ?_ (keeps_setRes0 _ _)) (keeps_setRes1 _ _)) (keeps_tick _)
    constructor <;> rfl
  case peakUpdate =>
    obtain ⟨a, -, ht⟩ := bind_eq_ok ht
    cases ht; constructor <;> rfl
  case peakRead => cases ht; exact keeps_setRes0 _ _
  case didxWrite =>
    obtain ⟨a, -, ht⟩ := bind_eq_ok ht
    split at ht; · cases ht
    cases ht; constructor <;> rfl
  case didxRead =>
    obtain ⟨a, -, ht⟩ := bind_eq_ok ht
    cases ht; exact keeps_setRes0 _ _
  case statusRead => cases ht; exact keeps_setRes0 _ _
  case testctlWrite =>
    obtain ⟨a, -, ht⟩ := bind_eq_ok ht
    split at ht; · cases ht
    cases ht; constructor <;> rfl

/-- A command that nothing keeps from its arrays: no dead session refuses it. -/
theorem refuses_of_no_fault {s : State} (h : s.fault = none) (i : Instr) : s.refuses i = false := by
  simp [State.refuses, State.faulted, h]

/-- The arrays of a command that stands in a port's CMD are those its operands give. -/
theorem commandArrays_of_ok {s : State} {p : Port} {w : Word} {i : Instr} {r} (hw : (s.port p).cmd = some w)
    (hd : decodeOn p w = .ok i) (h : ({ s with active := p } : State).usedArrays i = .ok r) : s.commandArrays p = r := by
  simp only [State.commandArrays, hw, hd, h]

/-- A command whose operands fail a test runs on no array. -/
theorem commandArrays_of_error {s : State} {p : Port} {w : Word} {i : Instr} {c} (hw : (s.port p).cmd = some w)
    (hd : decodeOn p w = .ok i) (h : ({ s with active := p } : State).usedArrays i = .error c) :
    s.commandArrays p = ([], []) := by
  simp only [State.commandArrays, hw, hd, h]

/-- A PROCESS_STEREO whose operands are good runs on its four arrays. -/
theorem usedArrays_processStereo {s : State} {a : StereoArrays} {ms : Int} (hf : s.fault = none) (hl : 0 < s.len)
    (ha : s.stereoReady a) (hm : s.argI32 5 = .ok ms) : s.usedArrays .processStereo = .ok a.ranges := by
  simp [State.usedArrays, refuses_of_no_fault hf, Nat.ne_of_gt hl, stereoArgs_of_ready ha, hm, Bind.bind, Except.bind]

/-- An AUDIO_BLOCK about to start on good operands runs on its four arrays. -/
theorem usedArrays_audioBlock {s : State} {a : StereoArrays} (hf : s.fault = none) (hb : s.block = none)
    (ha : s.stereoReady a) : s.usedArrays .audioBlock = .ok a.ranges := by
  simp [State.usedArrays, hb, refuses_of_no_fault hf, stereoArgs_of_ready ha, Bind.bind, Except.bind]

/-- A block in progress runs on the arrays it started with. -/
theorem usedArrays_block {s : State} {b : Block} (hb : s.block = some b) :
    s.usedArrays .audioBlock = .ok b.arrays.ranges := by
  simp [State.usedArrays, hb]

/-- A resampler unit has registers to use exactly when both are written. -/
theorem ResamplerUnit.regs_ok_iff_isWritten (f : ResamplerUnit) : (∃ r, f.regs = .ok r) ↔ f.isWritten = true := by
  rcases f with ⟨_ | p, _ | l⟩
  · exact ⟨(fun ⟨_, h⟩ => by cases h), (fun h => by cases h)⟩
  · exact ⟨(fun ⟨_, h⟩ => by cases h), (fun h => by cases h)⟩
  · exact ⟨(fun ⟨_, h⟩ => by cases h), (fun h => by cases h)⟩
  · exact ⟨fun _ => rfl, fun _ => ⟨_, rfl⟩⟩

/-- A resampler command with good operands on a written unit runs on its two arrays. -/
theorem usedArrays_resampler {s : State} {i : Instr} {u : BitVec 4} {a : ResampleArgs} {x y : F64}
    (hi : i = .rsDownsample u ∨ i = .rsUpsample u) (hf : s.fault = none) (ha : s.resampleReady a x y)
    (hu : s.resamplers[resamplerIx u].isWritten = true) : s.usedArrays i = .ok a.ranges := by
  have hr := (ResamplerUnit.regs_ok_iff_isWritten s.resamplers[resamplerIx u]).2 hu
  obtain ⟨r, hr⟩ := hr
  rcases hi with rfl | rfl <;>
    simp only [State.usedArrays, refuses_of_no_fault hf, resampleArgs_of_ready ha, hr, Bind.bind, Except.bind,
      Bool.false_eq_true, if_false]

/-- Everything a step can be: a port's step, a host write to an idle port, no change, a write of host memory, a power cycle. -/
theorem step_cases {s t : State} (h : step s = .next t) :
   (∃ p s0, portStep p s0 = .next t ∧ ({ s0 with inputs := s.inputs, free := s.free } : State) = s ∧ (s0 = s ∨ s0 = s.tick ∨ s0 = { s with inputs := s.inputs.tail})) ∨
   (∃ p k v, s.inputs = .writeArg p k v :: s.inputs.tail ∧ (s.port p).cmd = none ∧ t = ({ s with inputs := s.inputs.tail } : State).writeArg p k v) ∨
   (∃ p w, s.inputs = .writeCmd p w :: s.inputs.tail ∧ (s.port p).cmd = none ∧ t = ({ s with inputs := s.inputs.tail } : State).writeCmd p w) ∨
   (t = { s with inputs := s.inputs.tail }) ∨
   (∃ (a : BitVec 64) (b : Byte), t = { s with inputs := s.inputs.tail, mem := cellsSet s.mem a.toNat b }) ∨
   (s.inputs = .powerCycle :: s.inputs.tail ∧ t = ({ s with inputs := s.inputs.tail } : State).powerCycle) := by
  simp only [step, machineStep] at h
  split at h
  · left
    rename_i hi
    unfold freeRun at h
    split at h
    · exact ⟨_, _, h, by cases s; simp_all [State.tick], .inr (.inl rfl)⟩
    split at h
    · exact ⟨_, _, h, by simp, .inl rfl⟩
    · exact ⟨_, _, h, by simp, .inl rfl⟩
  · rename_i e rest hi
    have hp : ∀ p, ∀ t, portStep p { ({ s with inputs := rest } : State) with inputs := e :: rest } = .next t → portStep p s = .next t := by
      intro p t h; rw [← hi] at h; exact h
    have ht : s.inputs.tail = rest := by simp [hi]
    rw [ht, hi]
    unfold hostStep at h
    split at h
    · split at h
      · left; exact ⟨_, _, hp _ _ h, by rw [← hi], .inl rfl⟩
      · rename_i p k v hb
        cases h
        right; left; refine ⟨_, _, _, rfl, ?_, rfl⟩
        unfold State.busy at hb; cases p <;> simpa [State.port] using hb
    · split at h
      · left; exact ⟨_, _, hp _ _ h, by rw [← hi], .inl rfl⟩
      · rename_i p w hb
        cases h
        right; right; left; refine ⟨_, _, rfl, ?_, rfl⟩
        unfold State.busy at hb; cases p <;> simpa [State.port] using hb
    · split at h
      · left; exact ⟨_, _, hp _ _ h, by rw [← hi], .inl rfl⟩
      · cases h; right; right; right; left; rfl
    · split at h
      · cases h
      · cases h; right; right; right; right; left; exact ⟨_, _, rfl⟩
    · split at h
      · cases h
      · cases h; right; right; right; left; rfl
    · left; exact ⟨_, _, h, by rw [← hi], .inr (.inr rfl)⟩
    · cases h; right; right; right; right; right; exact ⟨rfl, rfl⟩

/-- Every command answers a next state. -/
theorem exec_answers_next (i : Instr) (s : State) : ∃ t, exec i s = .next t := by
  by_cases h : s.resumes i
  · obtain ⟨rfl, ha, hb⟩ := h
    obtain ⟨b, hb⟩ := Option.isSome_iff_exists.1 hb
    exact ⟨_, exec_of_resumes ha hb⟩
  · rw [exec_eq i s h]
    exact runCommand_next _ _ _

/-- Everything a port's step can be: nothing, ILLEGAL, or a command carried out. -/
theorem portStep_cases {p : Port} {s t : State} (h : portStep p s = .next t) :
  t = s ∧ (s.port p).cmd = none ∨ (∃ w, (s.port p).cmd = some w ∧ (∀ i, decodeOn p w ≠ .ok i) ∧ t = (s.faultEntry p w .illegal).dropCommand p) ∨
  ∃ w i u, (s.port p).cmd = some w ∧ decodeOn p w = .ok i ∧ exec i { s with active := p } = .next u ∧ t = u.retire p i := by
  unfold portStep at h
  split at h
  · cases h; exact .inl ⟨rfl, by assumption⟩
  split at h
  · cases h; rename_i hd; exact .inr (.inl ⟨_, by assumption, by intro i; rw [hd]; simp, rfl⟩)
  · rename_i w hw _ i hd
    obtain ⟨u, hu⟩ := exec_answers_next i { s with active := p }
    rw [hu] at h; cases h
    exact .inr (.inr ⟨w, i, u, hw, hd, hu, rfl⟩)

end Sys2Proof.Machine
end

