-- ==== Sys2Proof/Tests/Slice0.lean ====
section
/-!
SUPPORT. Tests of the model against the words and vectors of spec/ (95 and the encoding rules), and for every statement
with hypotheses a state and operands that meet them. Expected values are the spec's own. Nothing imports this file.
-/

namespace Sys2Proof.Tests

-- One theorem after the other: many at once would ask for more threads than the build's memory limit allows.
set_option Elab.async false

open Sys2Proof Sys2Proof.Machine

/-! ### Well-formedness -/

theorem test_wf_units_in_range :
    (Instr.fltSetcoef 7 .hp).wf = true ∧ (Instr.fltProcess 7).wf = true ∧ (Instr.fltReset 7).wf = true ∧
    (Instr.rsDownsample 3).wf = true ∧ (Instr.rsUpsample 3).wf = true ∧ (Instr.rsReset 3).wf = true ∧
    (Instr.peakUpdate 3).wf = true ∧ (Instr.peakRead 3).wf = true ∧ Instr.prepare.wf = true := by decide

theorem test_wf_refuses_filter_unit_8 :
    (Instr.fltSetcoef 8 .lp).wf = false ∧ (Instr.fltProcess 8).wf = false ∧ (Instr.fltReset 15).wf = false := by decide

theorem test_wf_refuses_resampler_unit_4 :
    (Instr.rsDownsample 4).wf = false ∧ (Instr.rsUpsample 4).wf = false ∧ (Instr.rsReset 4).wf = false := by decide

theorem test_wf_refuses_peak_channel_4 :
    (Instr.peakUpdate 4).wf = false ∧ (Instr.peakRead 4).wf = false := by decide

/-! ### Decoding: words written out from 30 R100 to R105, OPC UNIT MODE RSVD -/

theorem test_decode_prepare : decode 0b00000001_0000_0000_0000000000000000#32 = .ok .prepare := by decide

theorem test_decode_reset : decode 0b00000010_0000_0000_0000000000000000#32 = .ok .reset := by decide

theorem test_decode_processStereo :
    decode 0b00000011_0000_0000_0000000000000000#32 = .ok .processStereo := by decide

theorem test_decode_audioBlock : decode 0b00000100_0000_0000_0000000000000000#32 = .ok .audioBlock := by decide

theorem test_decode_fltSetcoef :
    decode 0b00010000_0100_0001_0000000000000000#32 = .ok (.fltSetcoef 4 .hp) ∧
    decode 0b00010000_0110_0000_0000000000000000#32 = .ok (.fltSetcoef 6 .lp) := by decide

theorem test_decode_fltProcess : decode 0b00010001_0111_0000_0000000000000000#32 = .ok (.fltProcess 7) := by decide

theorem test_decode_fltReset : decode 0b00010010_0110_0000_0000000000000000#32 = .ok (.fltReset 6) := by decide

theorem test_decode_rsDownsample :
    decode 0b00100000_0001_0000_0000000000000000#32 = .ok (.rsDownsample 1) := by decide

theorem test_decode_rsUpsample : decode 0b00100001_0011_0000_0000000000000000#32 = .ok (.rsUpsample 3) := by decide

theorem test_decode_rsReset : decode 0b00100010_0010_0000_0000000000000000#32 = .ok (.rsReset 2) := by decide

theorem test_decode_dlyStep : decode 0b00110000_0000_0000_0000000000000000#32 = .ok .dlyStep := by decide

theorem test_decode_peakUpdate : decode 0b01000000_0010_0000_0000000000000000#32 = .ok (.peakUpdate 2) := by decide

theorem test_decode_peakRead : decode 0b01000001_0011_0000_0000000000000000#32 = .ok (.peakRead 3) := by decide

theorem test_decode_didxWrite : decode 0b01010000_0000_0000_0000000000000000#32 = .ok .didxWrite := by decide

theorem test_decode_didxRead : decode 0b01010001_0000_0000_0000000000000000#32 = .ok .didxRead := by decide

theorem test_decode_statusRead : decode 0b01010010_0000_0000_0000000000000000#32 = .ok .statusRead := by decide

theorem test_decode_testctlWrite :
    decode 0b01010011_0000_0000_0000000000000000#32 = .ok .testctlWrite := by decide

/-- 95 V-X1, the illegal words of P0. -/
theorem test_decode_illegal_words :
    decode 0x10020000#32 = .error .mode ∧ decode 0x10800000#32 = .error .unit ∧
    decode 0x11800000#32 = .error .unit ∧ decode 0x11010000#32 = .error .mode ∧
    decode 0x21400000#32 = .error .unit ∧ decode 0x30000001#32 = .error .reserved ∧
    decode 0x00000000#32 = .error .opcode ∧ decode 0xFF000000#32 = .error .opcode := by decide

/-- 95 V-X1, the words on P1. -/
theorem test_decode_on_p1 :
    decodeOn .p1 0x01000000#32 = .error .port ∧ decodeOn .p1 0x41300000#32 = .ok (.peakRead 3) ∧
    decodeOn .p1 0x40000000#32 = .error .port ∧ decodeOn .p1 0x52000000#32 = .ok .statusRead ∧
    decodeOn .p1 0x53000000#32 = .error .port := by decide

theorem test_decodeTableWord :
    decodeTableWord 32 0x41300000 = some (.peakRead 3) ∧ decodeTableWord 32 0x10020000 = none := by decide

/-! ### Small states -/

/-- Parameters as in 95: the default `COEF_FN`, `RETURN_INNER`, little-endian, `PEAK_INIT` zero, RAM for 401 ms. -/
def tParams : Params :=
  { delayRamWords := 9624, scratchCap := 4096, byteOrder := .little, stop := .returnInner, coef := .rounded
    peakInit := Vector.replicate 4 0#32, portBase := 0#64 }

/-- A port's ARG registers from a list; the rest stay unwritten. -/
def argsOf (l : List Reg64) : Vector (Option Reg64) 8 := Vector.ofFn fun k => l[k.val]?

/-- Power-on with ARGs written on P0. -/
def tFresh (l : List Reg64) : State :=
  { State.powerOn tParams with p0 := { PortRegs.unwritten with args := argsOf l } }

/-- Power-on with ARGs written on P1, which carries out the next command. -/
def tControl (l : List Reg64) : State :=
  { State.powerOn tParams with active := .p1, p1 := { PortRegs.unwritten with args := argsOf l } }

/-- A dead session. -/
def tDead (l : List Reg64) : State := { tFresh l with fault := some .illegal }

/-- A written filter unit. -/
def tFilter (a : F32) (k : FilterType) (y x : F32) : FilterUnit :=
  { a := some a, kind := some k, yPrev := some y, xPrev := some x }

/-- The filters after PREPARE (48000, m), 95 V-F1. -/
def tFilters : Vector FilterUnit 8 :=
  #v[tFilter 0x3E8A4959#32 .lp 0#32 0#32, tFilter 0x3E8A4959#32 .lp 0#32 0#32,
     tFilter 0x3E8A4959#32 .lp 0#32 0#32, tFilter 0x3E8A4959#32 .lp 0#32 0#32,
     tFilter 0x3F7AB1B1#32 .hp 0#32 0#32, tFilter 0x3F7AB1B1#32 .hp 0#32 0#32,
     tFilter 0x3DC21C22#32 .lp 0#32 0#32, tFilter 0x3DC21C22#32 .lp 0#32 0#32]

/-- A session prepared by PREPARE (48000, 1) with NORAND set, and ARGs written on P0. -/
def tReady (l : List Reg64) : State :=
  { tFresh l with
    testctl := 1#32, len := 24, hostRate := some 0x40E7700000000000#64, writePos := some 0, filters := tFilters
    resamplers := Vector.replicate 4 ResamplerUnit.cleared }

/-- Host memory holding elements from an address up. -/
def tMem (base : Nat) (xs : List F32) : List Host.Cell := writeArray .little [] base xs

/-- What a next state shows; nothing where the machine stops. -/
def shows {α : Type} (o : Host.Outcome State Fault Refusal) (f : State → α) : Option α :=
  match o with
  | .next t => some (f t)
  | .fault _ => none
  | .refused _ => none

/-- A next state with a property exists where the outcome shows it. -/
theorem next_of_shows {o : Host.Outcome State Fault Refusal} {P : State → Prop} [DecidablePred P]
    (h : shows o (fun t => decide (P t)) = some true) : ∃ t, o = .next t ∧ P t := by
  cases o with
  | next t => exact ⟨t, rfl, by simpa [shows] using h⟩
  | fault r => cases h
  | refused r => cases h

/-- The first two tests of 60 R237, as a computation. -/
theorem accepts_of {i : Instr} {s : State}
    (h : (i.wf && i.acceptedOn s.active && (s.fault.isNone || s.active == .p1 || i.servesDeadSession)) = true) :
    s.accepts i := by
  simp only [Bool.and_eq_true, Bool.or_eq_true, beq_iff_eq, Option.isNone_iff_eq_none] at h
  exact ⟨h.1.1, h.1.2, by tauto⟩

/-! ### One step of each command -/

/-- 95 V-D1, V-F1, V-C4: PREPARE (48000, 400). -/
theorem test_prepare :
    shows (exec .prepare (tFresh [0x40E7700000000000#64, 400#64])) (fun t =>
      ([t.filters[0].a, t.filters[5].a, t.filters[6].a], t.len, t.statusWord)) =
    some ([some 0x3E8A4959#32, some 0x3F7AB1B1#32, some 0x3DC21C22#32], 9600, 0x01#32) := by decide +kernel

/-- 95 V-X4, program 6: the rate's bound, and a length past the RAM. -/
theorem test_prepare_faults :
    shows (exec .prepare (tFresh [0x40D3880000000000#64, 1#64])) State.statusWord = some 0x32#32 ∧
    shows (exec .prepare (tFresh [0x40D3880000000001#64, 1#64])) State.statusWord = some 0x01#32 ∧
    shows (exec .prepare (tFresh [0x40E7700000000000#64, 1000#64])) State.statusWord = some 0x52#32 := by
  decide +kernel

/-- 42 R187: RESET clears the words below LEN and every history, and keeps coefficients. -/
theorem test_reset :
    shows (exec .reset { tReady [] with
        bufL := [(0, 0x3F800000#32), (23, 0x3F800000#32), (24, 0x3F800000#32)]
        filters := tFilters.set 4 (tFilter 0x3F7AB1B1#32 .hp 0x3F800000#32 0x3F000000#32) })
      (fun t => (t.bufL, t.filters[4], t.len)) =
    some ([(24, 0x3F800000#32)], tFilter 0x3F7AB1B1#32 .hp 0#32 0#32, 24) := by decide +kernel

/-- 95 V-X5: a dead session refuses RESET. -/
theorem test_reset_refused :
    shows (exec .reset { tReady [] with fault := some .uninit, bufL := [(0, 0x3F800000#32)] })
      (fun t => (t.bufL, t.faultLog)) =
    some ([(0, 0x3F800000#32)], [{ port := .p0, word := 0x02000000#32, what := .refused }]) := by decide +kernel

/-- 95 program 4, block 1, from the state its block 0 leaves. -/
theorem test_processStereo :
    shows (exec .processStereo { tReady [0x1000#64, 0x1010#64, 0x1020#64, 0x1030#64, 4#64, 0#64] with
        writePos := some 2, bufL := [(1, 0x3E49DF8A#32)]
        filters := tFilters.set 0 (tFilter 0x3E8A4959#32 .lp 0x3C6B9F96#32 0#32)
        resamplers := (Vector.replicate 4 ResamplerUnit.cleared).set 0 ⟨some 0#64, some 0x3C6B9F96#32⟩ })
      (fun t => (readArray .little t.mem 0x1020 4, readArray .little t.mem 0x1030 4, t.writePos)) =
    some ([0x00000000#32, 0x3D82A75C#32, 0x3E144C46#32, 0x3DE5EBF4#32],
          [0x00000000#32, 0x3A237FEA#32, 0x3AB9945D#32, 0x3A8F8D3D#32], some 4) := by decide +kernel

/-- 95 V-X2, V-X3: a misaligned input array is MEMORY even with N = -1; `outL = inL` is allowed. -/
theorem test_processStereo_checks :
    shows (exec .processStereo (tReady [0x1002#64, 0x1010#64, 0x1020#64, 0x1030#64, 0xFFFFFFFF#64, 0#64]))
      State.statusWord = some 0x23#32 ∧
    shows (exec .processStereo (tReady [0x1000#64, 0x1010#64, 0x1000#64, 0x1030#64, 4#64, 0#64]))
      State.statusWord = some 0x01#32 ∧
    shows (exec .processStereo (tReady [0x1000#64, 0x1010#64, 0x1004#64, 0x1030#64, 4#64, 0#64]))
      State.statusWord = some 0x23#32 := by decide +kernel

/-- An AUDIO_BLOCK of 95 program 5 at a sub-step. -/
def tBlock (stage : BlockStage) : Block :=
  { inL := 0x1000, inR := 0x1010, outL := 0x1020, outR := 0x1030, n := 4, idx := 0, stage := stage }

/-- 95 program 5: S0 takes the snapshot and the first input meter comes next. -/
theorem test_audioBlock_start :
    shows (exec .audioBlock { tReady [0x1000#64, 0x1010#64, 0x1020#64, 0x1030#64, 4#64] with delayIndex := some 0 })
      State.block = some (some (tBlock (.meterIn 0 .left))) := by decide +kernel

/-- 95 program 5: S1[1].L meters -0.75 and leaves 0.75. -/
theorem test_audioBlock_meter :
    shows (exec .audioBlock { tReady [] with
        mem := tMem 0x1000 [0x3F000000#32, 0xBF400000#32], peaks := #v[0x3F000000#32, 0#32, 0#32, 0#32]
        block := some (tBlock (.meterIn 1 .left)) })
      (fun t => (t.peaks[0], t.block)) =
    some (0x3F400000#32, some (tBlock (.meterIn 1 .right))) := by decide +kernel

/-- 95 V-F1, and V-F4 with `fc = 0`. -/
theorem test_fltSetcoef :
    shows (exec (.fltSetcoef 4 .hp) (tFresh [0x40D7700000000000#64, 0x4054000000000000#64]))
      (fun t => (t.filters[4].a, t.filters[4].kind, t.filters[4].yPrev)) =
    some (some 0x3F7AB1B1#32, some .hp, none) ∧
    shows (exec (.fltSetcoef 4 .lp) (tFresh [0x40D7700000000000#64, 0#64])) (fun t => t.filters[4].a) =
    some (some 0x3F800000#32) := by decide +kernel

/-- 95 V-F4: `fc` at half the rate faults, just below it succeeds, below zero faults. -/
theorem test_fltSetcoef_bounds :
    shows (exec (.fltSetcoef 0 .lp) (tFresh [0x40D7700000000000#64, 0x40C7700000000000#64])) State.statusWord =
      some 0x32#32 ∧
    shows (exec (.fltSetcoef 0 .lp) (tFresh [0x40D7700000000000#64, 0x40C76F8000000000#64])) State.statusWord =
      some 0#32 ∧
    shows (exec (.fltSetcoef 0 .lp) (tFresh [0x40D7700000000000#64, 0xBFF0000000000000#64])) State.statusWord =
      some 0x32#32 := by decide +kernel

/-- 95 V-F2, third samples: low-pass -0.625, high-pass -1.375. -/
theorem test_fltProcess :
    shows (exec (.fltProcess 6) { tFresh [0xC0000000#64] with
        filters := Vector.replicate 8 (tFilter 0x3F000000#32 .lp 0x3F400000#32 0x3F800000#32) })
      (fun t => (t.p0.res0, t.filters[6])) =
    some (some 0xBF200000#64, tFilter 0x3F000000#32 .lp 0xBF200000#32 0xC0000000#32) ∧
    shows (exec (.fltProcess 4) { tFresh [0xC0000000#64] with
        filters := Vector.replicate 8 (tFilter 0x3F000000#32 .hp 0x3E800000#32 0x3F800000#32) })
      (fun t => (t.p0.res0, t.filters[4])) =
    some (some 0xBFB00000#64, tFilter 0x3F000000#32 .hp 0xBFB00000#32 0xC0000000#32) := by decide +kernel

/-- 95 V-F4: a unit never set faults UNINIT. -/
theorem test_fltProcess_uninit :
    shows (exec (.fltProcess 6) (tFresh [0x3F800000#64])) State.statusWord = some 0x42#32 := by decide +kernel

/-- 40 R134, 95 V-F4: a unit never set keeps A and TYPE unwritten. -/
theorem test_fltReset :
    shows (exec (.fltReset 6) (tFresh [])) (fun t => t.filters[6]) =
    some { a := none, kind := none, yPrev := some 0#32, xPrev := some 0#32 } := by decide +kernel

/-- The operands of 95 V-R3 with the cap given. -/
def tDown (cap : Reg64) : State :=
  { tFresh [0x2000#64, 4#64, 0x3000#64, cap, 0x40E7700000000000#64, 0x40D7700000000000#64] with
    mem := tMem 0x2000 [0x3F800000#32, 0x40000000#32, 0x40400000#32, 0x40800000#32]
    resamplers := Vector.replicate 4 ResamplerUnit.cleared }

/-- 95 V-R3. -/
theorem test_rsDownsample :
    shows (exec (.rsDownsample 1) (tDown 10#64)) (fun t =>
      (readArray .little t.mem 0x3000 2, t.p0.res0, t.resamplers[1])) =
    some ([0x00000000#32, 0x40000000#32], some 2#64, ⟨some 0#64, some 0x40800000#32⟩) := by decide +kernel

/-- 95 V-R4: the input that meets the cap is not consumed. -/
theorem test_rsDownsample_cap :
    shows (exec (.rsDownsample 1) (tDown 1#64)) (fun t => (t.p0.res0, t.resamplers[1])) =
    some (some 1#64, ⟨some 0#64, some 0x40000000#32⟩) := by decide +kernel

/-- The operands of RS_UPSAMPLE at ratio 0.5 with the inputs, the count and the unit given. -/
def tUp (xs : List F32) (count : Reg64) (r : ResamplerUnit) : State :=
  { tFresh [0x2000#64, BitVec.ofNat 64 xs.length, 0x3000#64, count, 0x40D7700000000000#64, 0x40E7700000000000#64] with
    mem := tMem 0x2000 xs, resamplers := Vector.replicate 4 r }

/-- 95 V-R12. -/
theorem test_rsUpsample :
    shows (exec (.rsUpsample 2) (tUp [0#32, 0x40000000#32] 4#64 ResamplerUnit.cleared)) (fun t =>
      (readArray .little t.mem 0x3000 4, t.p0.res0, t.resamplers[2])) =
    some ([0#32, 0#32, 0#32, 0x3F800000#32], some 4#64, ⟨some 0#64, some 0x40000000#32⟩) := by decide +kernel

/-- 95 V-R10: an extrapolation. -/
theorem test_rsUpsample_extrapolates :
    shows (exec (.rsUpsample 2) (tUp [0x40000000#32] 1#64 ⟨some 0x3FF8000000000000#64, some 0#32⟩)) (fun t =>
      (readArray .little t.mem 0x3000 1, t.resamplers[2])) =
    some ([0x40400000#32], ⟨some 0x3FF0000000000000#64, some 0x40000000#32⟩) := by decide +kernel

/-- 41 R155: only the selected unit. -/
theorem test_rsReset :
    shows (exec (.rsReset 2) (tFresh [])) (fun t => (t.resamplers[2], t.resamplers[1])) =
    some (⟨some 0#64, some 0#32⟩, ⟨none, none⟩) := by decide +kernel

/-- 95 V-D5. -/
theorem test_dlyStep :
    shows (exec .dlyStep (tReady [0x3F000000#64, 0x3E800000#64, 0#64])) (fun t => (t.p0.res0, t.p0.res1, t.writePos)) =
    some (some 0x3EE42000#64, some 0x3E678000#64, some 1) := by decide +kernel

/-- 95 V-D6: unprepared. -/
theorem test_dlyStep_unprepared :
    shows (exec .dlyStep (tFresh [0#64, 0#64, 0#64])) State.statusWord = some 0x42#32 := by decide +kernel

/-- 95 V-P1: the attack to 0.5, then one decay. -/
theorem test_peakUpdate :
    shows (exec (.peakUpdate 0) (tFresh [0x3F000000#64])) (fun t => t.peaks[0]) = some 0x3F000000#32 ∧
    shows (exec (.peakUpdate 0) { tFresh [0xBF000000#64] with peaks := Vector.replicate 4 0x3F000000#32 })
      (fun t => (t.peaks[0], t.peaks[1])) = some (0x3EFFDF3B#32, 0x3F000000#32) := by decide +kernel

/-- 95 V-P1: a NaN decays. -/
theorem test_peakUpdate_nan :
    shows (exec (.peakUpdate 0) { tFresh [0x7FC00000#64] with peaks := Vector.replicate 4 0x3F19999A#32 })
      (fun t => t.peaks[0]) = some 0x3F1985F1#32 := by decide +kernel

/-- 95 V-P1: the value is zero-extended into RES0 of the issuing port. -/
theorem test_peakRead :
    shows (exec (.peakRead 0) { tControl [] with peaks := #v[0x3F1985F1#32, 0#32, 0#32, 0#32] })
      (fun t => (t.p1.res0, t.p0.res0)) = some (some 0x000000003F1985F1#64, none) := by decide +kernel

/-- 95 V-C1, and the largest index. -/
theorem test_didxWrite :
    shows (exec .didxWrite (tControl [5#64])) State.delayIndex = some (some 5) ∧
    shows (exec .didxWrite (tControl [6#64])) (fun t => (t.delayIndex, t.statusWord)) = some (none, 0x32#32) ∧
    shows (exec .didxWrite (tControl [0xFFFFFFFF#64])) State.statusWord = some 0x32#32 := by decide +kernel

/-- 95 V-C1. -/
theorem test_didxRead :
    shows (exec .didxRead { tFresh [] with delayIndex := some 3 }) (fun t => t.p0.res0) = some (some 3#64) := by
  decide +kernel

/-- 95 V-C4: a MEMORY fault while prepared reads 0x23. -/
theorem test_statusRead :
    shows (exec .statusRead { tReady [] with fault := some .memory }) (fun t => t.p0.res0) = some (some 0x23#64) := by
  decide +kernel

/-- 95 V-C5: 1 is held, 2 faults. -/
theorem test_testctlWrite :
    shows (exec .testctlWrite (tFresh [1#64])) State.testctl = some 1#32 ∧
    shows (exec .testctlWrite (tFresh [2#64])) (fun t => (t.testctl, t.statusWord)) = some (0#32, 0x32#32) := by
  decide +kernel

/-- 95 V-Q1. -/
theorem test_quantize :
    quantize [] 0x3DCCCCCD#32 0#32 0#32 = 0x3DCD0000#32 ∧ quantize [] 0x39000000#32 0#32 0#32 = 0x39800000#32 ∧
    quantize [] 0xB9000000#32 0#32 0#32 = 0#32 ∧ quantize [] 0x3EAAAAAB#32 0#32 0#32 = 0x3EAAA000#32 := by
  decide +kernel

/-- 95 V-Q2. -/
theorem test_noise_floor :
    quantizeNoise [] 0#32 0x3F800000#32 0x3F800000#32 0x3F800000#32 = 0x39B46DC6#32 ∧
    quantizeNoise [] 0#32 0x3F800000#32 0x3F800000#32 0xBF800000#32 = 0x39172474#32 := by decide +kernel

/-- 95 V-D4. -/
theorem test_readPos :
    readPos 0 25 24 = 23 ∧ readPos 1 (-3) 24 = 4 ∧ readPos 5 0 24 = 5 ∧ readPos 5 24 24 = 5 := by decide

/-- 20 R73: 1.0 stands as 00 00 80 3F in little order (95 program 4), the other way round in big. -/
theorem test_byte_order :
    memWrite .little [] 0x1000 0x3F800000#32 = [(0x1002, 0x80#8), (0x1003, 0x3F#8)] ∧
    memWrite .big [] 0x1000 0x3F800000#32 = [(0x1000, 0x3F#8), (0x1001, 0x80#8)] := by decide

/-! ### Steps from power-on -/

/-- 60 R249: with no command the machine holds its state. -/
theorem test_step_idle : step State.reset = .next State.reset := rfl

/-- 95 V-C4: STATUS_READ as the first command returns 0. -/
theorem test_step_statusRead :
    shows (step (State.reset.withFetchWord 32 0x52000000)) (fun t => (t.p0.res0, t.p0.cmd)) =
    some (some 0#64, none) := by decide +kernel

/-- 60 R233: an illegal first word. -/
theorem test_step_illegal :
    shows (step (State.reset.withFetchWord 32 0x00000000)) (fun t => (t.statusWord, t.faultLog)) =
    some (0x12#32, [{ port := .p0, word := 0#32, what := .fault .illegal }]) := by decide +kernel

/-! ### Hypotheses: for every statement that has any, a state and operands that meet them -/

theorem test_hyp_DecodeOfEncode : (Instr.fltSetcoef 7 .hp).wf = true ∧ (Instr.peakRead 3).wf = true := by decide

theorem test_hyp_EncodeOfDecode : decode 0x10710000#32 = .ok (.fltSetcoef 7 .hp) := by decide

theorem test_hyp_DecodeAgreesWithOpcodeTable :
    decode 0x41300000#32 = .ok (.peakRead 3) ∧
    (∃ r ∈ opcodeTable, r.matches 0x41300000#32 = true) ∧
    (∃ r ∈ opcodeTable, ∃ q ∈ opcodeTable, r.matches 0x41300000#32 = true ∧ q.matches 0x41300000#32 = true) ∧
    (∀ r ∈ opcodeTable, r.matches 0x41400000#32 = false) := by decide

/-- The boundary words: RSVD 1, UNIT 8, MODE 2, and a P0 row on P1. -/
theorem test_hyp_IllegalWordTakesFault :
    wordLegal .p0 0x41300000#32 = true ∧
    [0x00000000#32, 0x30000001#32, 0x11800000#32, 0x10020000#32].all (fun w =>
      decide ((((tReady []).writeCmd .p0 w).port .p0).cmd = some w) && !wordLegal .p0 w) = true ∧
    (((tReady []).writeCmd .p1 0x53000000#32).port .p1).cmd = some 0x53000000#32 ∧
    wordLegal .p1 0x53000000#32 = false := by decide +kernel

theorem test_hyp_ControlPortAcceptsFourCommands :
    (Instr.peakRead 3).wf = true ∧ Instr.testctlWrite.wf = true ∧
    ((tReady []).writeCmd .p1 (encode .testctlWrite)).p1.cmd = some (encode .testctlWrite) ∧
    ¬ ((∃ u, Instr.testctlWrite = .peakRead u) ∨ Instr.testctlWrite = .didxWrite ∨ Instr.testctlWrite = .didxRead ∨
      Instr.testctlWrite = .statusRead) :=
  ⟨by decide, by decide, by decide, by rintro (⟨u, h⟩ | h | h | h) <;> cases h⟩

/-- Both ways a port comes to step: the schedule's word, and the host silent with one port busy. -/
theorem test_hyp_StepRunsDecodedCommand :
    (let s := State.reset.withFetchWord 32 0x52000000
     s.inputs = .run .p0 :: [] ∧ (s.port .p0).cmd = some 0x52000000#32 ∧ decodeOn .p0 0x52000000#32 = .ok .statusRead) ∧
    (let s := (tReady []).writeCmd .p1 0x41000000#32
     (s.inputs = [] ∧ ∀ q, q ≠ Port.p1 → (s.port q).cmd = none) ∧ (s.port .p1).cmd = some 0x41000000#32 ∧
     decodeOn .p1 0x41000000#32 = .ok (.peakRead 0)) :=
  ⟨⟨rfl, rfl, rfl⟩, ⟨⟨rfl, fun q h => by cases q with | p0 => rfl | p1 => exact absurd rfl h⟩, rfl, rfl⟩⟩

/-- An illegal word, the schedule's word for a port without a command, and the host silent with both ports busy and with
none. -/
theorem test_hyp_StepWithoutCommand :
    (let s := State.reset.withFetchWord 32 0x30000001
     s.inputs = .run .p0 :: [] ∧ (s.port .p0).cmd = some 0x30000001#32 ∧ decodeOn .p0 0x30000001#32 = .error .reserved) ∧
    (let s : State := { tReady [] with inputs := [.run .p1] }
     s.inputs = .run .p1 :: [] ∧ (s.port .p1).cmd = none) ∧
    (let s := ((tReady []).writeCmd .p0 0x52000000#32).writeCmd .p1 0x41000000#32
     s.inputs = [] ∧ s.p0.cmd = some 0x52000000#32 ∧ s.p1.cmd = some 0x41000000#32) ∧
    ((tReady []).inputs = [] ∧ (tReady []).p0.cmd = none ∧ (tReady []).p1.cmd = none) :=
  ⟨⟨rfl, rfl, rfl⟩, ⟨rfl, rfl⟩, ⟨rfl, rfl, rfl⟩, rfl, rfl, rfl⟩

/-- 20 R84: with both ports busy the step is one port's or the other's, never both. -/
theorem test_step_both_busy :
    shows (step (((tReady []).writeCmd .p0 0x52000000#32).writeCmd .p1 0x52000000#32))
      (fun t => t.p0.cmd.isSome != t.p1.cmd.isSome) = some true := by
  show shows (portStep (if Config.controlFirst [0] then .p1 else .p0) _) _ = _
  cases Config.controlFirst [0] <;> decide +kernel

/-- The three acts on an idle and on a busy port. -/
theorem test_hyp_HostWriteWaitsForBusyPort :
    (tReady []).p0.cmd = none ∧ ((tReady []).writeCmd .p0 0x52000000#32).p0.cmd = some 0x52000000#32 ∧
    [HostEvent.writeArg .p0 7 1#64, .writeCmd .p0 0x01000000#32, .readRes .p0 1].all (fun e =>
      shows (step { tReady [] with inputs := [e] }) State.inputs == some [] &&
      shows (step { (tReady []).writeCmd .p0 0x52000000#32 with inputs := [e] }) (fun t => (t.inputs, t.p0.cmd)) ==
        some ([e], none)) = true := by decide +kernel

/-- 70 R266: on an idle port the word lands in CMD. -/
theorem test_host_write_of_cmd :
    shows (step { tReady [] with inputs := [.writeCmd .p1 0x52000000#32] }) (fun t => (t.p1.cmd, t.p0.cmd)) =
    some (some 0x52000000#32, none) := by decide +kernel

/-- A command about to run in a session, with the host's next act given. -/
def tTouch (i : Instr) (args : List Reg64) (e : HostEvent) : State :=
  { (tReady args).writeCmd .p0 (encode i) with inputs := [e] }

/-- A fault and a refusal, each added to the log. -/
theorem test_hyp_FaultsArePrecise :
    (let s := tReady [2#64]
     s.sessionOk = true ∧ ∃ t, exec .testctlWrite s = .next t ∧ t.faultLog ≠ s.faultLog) ∧
    (let s : State := { tReady [] with fault := some .memory }
     s.sessionOk = true ∧ ∃ t, exec .reset s = .next t ∧ t.faultLog ≠ s.faultLog) :=
  ⟨⟨by decide +kernel, next_of_shows (by decide +kernel)⟩, by decide +kernel, next_of_shows (by decide +kernel)⟩

theorem test_hyp_FaultLogOnlyGrows :
    let s := (tReady []).writeCmd .p0 0#32
    s.inputs.head? ≠ some .powerCycle ∧ ∃ t, step s = .next t ∧ t.faultLog ≠ s.faultLog :=
  ⟨by decide, next_of_shows (by decide +kernel)⟩

theorem test_hyp_OnlyPrepareEndsDeadSession :
    let s := (tDead [0x40E7700000000000#64, 1#64]).writeCmd .p0 (encode .prepare)
    s.inputs.head? ≠ some .powerCycle ∧ s.fault ≠ none ∧ ∃ t, step s = .next t ∧ t.fault = none :=
  ⟨by decide, by decide, next_of_shows (by decide +kernel)⟩

theorem test_hyp_DeadSessionRefuses :
    let s := tDead []
    Instr.reset.wf = true ∧ s.active = .p0 ∧ s.fault ≠ none ∧ Instr.reset ≠ .prepare ∧ Instr.reset ≠ .statusRead ∧
    ¬ (Instr.reset = .audioBlock ∧ s.block.isSome = true) := by decide

theorem test_hyp_UnwrittenArgTakesUninit :
    let s := tReady [0#64, 0#64]
    s.accepts .dlyStep ∧ ¬ s.resumes .dlyStep ∧ (2 : Fin 8) ∈ Instr.dlyStep.argsRead ∧
    (s.port s.active).args[(2 : Fin 8)] = none ∧ ¬ (Instr.dlyStep = .processStereo ∧ s.len = 0) :=
  ⟨accepts_of rfl, (fun ⟨h, _⟩ => by cases h), by decide, by decide, by decide⟩

/-- The operands of a resampler command at 48000 and 24000. -/
def tRates (n count : Reg64) : List Reg64 :=
  [0x2000#64, n, 0x3000#64, count, 0x40E7700000000000#64, 0x40D7700000000000#64]

/-- The same after every test. -/
def tRatio (n count : Nat) : ResampleArgs :=
  { inBase := 0x2000, n := n, outBase := 0x3000, count := count, ratio := 0x4000000000000000#64 }

theorem test_resampleReady :
    (tFresh (tRates 4#64 10#64)).resampleReady (tRatio 4 10) 0x40E7700000000000#64 0x40D7700000000000#64 ∧
    (tFresh (tRates 0#64 0#64)).resampleReady (tRatio 0 0) 0x40E7700000000000#64 0x40D7700000000000#64 := by
  unfold State.resampleReady; decide +kernel

/-- The operands of a block of `n` samples. -/
def tArrays (n : Reg64) : List Reg64 := [0x1000#64, 0x1010#64, 0x1020#64, 0x1030#64, n, 0#64]

/-- The same after every test. -/
def tStereo (n : Nat) : StereoArrays := { inL := 0x1000, inR := 0x1010, outL := 0x1020, outR := 0x1030, n := n }

theorem test_stereoReady :
    (tReady (tArrays 4#64)).stereoReady (tStereo 4) ∧ (tReady (tArrays 0#64)).stereoReady (tStereo 0) := by
  unfold State.stereoReady; decide +kernel

/-- The bytes at the edges of the arrays of `tStereo 4` and of the output of `tRatio 4 10`. -/
theorem test_array_edges :
    inArray 0x1000 4 0x1000 = true ∧ inArray 0x1030 4 0x103F = true ∧ inArray 0x1000 4 0xFFF = false ∧
    inArray 0x1030 4 0x1040 = false ∧ inArray 0x3000 10 0x3027 = true ∧ inArray 0x3000 10 0x3028 = false := by decide

/-- Operands of each command that runs on arrays, and a block in progress. -/
theorem test_hyp_HostTouchOfRunningArraysStops :
    (let s := tTouch .processStereo (tArrays 4#64) (.writeMem 0x1000#64 0xFF#8)
     s.p0.cmd = some (encode .processStereo) ∧ s.fault = none ∧ 0 < s.len ∧ s.active = .p0 ∧
     s.stereoReady (tStereo 4) ∧ s.argI32 5 = .ok 0 ∧ s.inputs = [.writeMem 0x1000#64 0xFF#8]) ∧
    (let s := tTouch .audioBlock (tArrays 4#64) (.readMem 0x1020#64)
     s.p0.cmd = some (encode .audioBlock) ∧ s.fault = none ∧ s.block = none ∧ s.active = .p0 ∧
     s.stereoReady (tStereo 4) ∧ s.inputs = [.readMem 0x1020#64]) ∧
    (let s : State := { tTouch .audioBlock [] (.readMem 0x1020#64) with block := some (tBlock .process) }
     s.p0.cmd = some (encode .audioBlock) ∧ s.block = some (tBlock .process)) := by
  unfold State.stereoReady; decide +kernel

theorem test_hyp_HostTouchOfResamplerArraysStops :
    ∀ i ∈ [Instr.rsDownsample 3, .rsUpsample 3],
      let s := tTouch i (tRates 4#64 10#64) (.writeMem 0x3000#64 0xFF#8)
      i.wf = true ∧ s.p0.cmd = some (encode i) ∧ s.fault = none ∧ s.active = .p0 ∧
      s.resampleReady (tRatio 4 10) 0x40E7700000000000#64 0x40D7700000000000#64 ∧
      s.resamplers[resamplerIx 3].isWritten = true := by
  unfold State.resampleReady; decide +kernel

/-- Each thing that keeps a command from its arrays: a dead session, LEN = 0, an unwritten ARG, a misaligned array, an
unwritten unit; and a command that has none. -/
theorem test_hyp_HostTouchOfIdleArrays :
    ((tDead []).fault ≠ none ∧ (tFresh []).len = 0) ∧
    ((0 : Fin 8) ∈ Instr.processStereo.argsRead ∧ (tReady []).p0.args[(0 : Fin 8)] = none) ∧
    (tReady [0x1002#64, 0x1010#64, 0x1020#64, 0x1030#64, 4#64, 0#64]).stereoArgs = .error .memory ∧
    (tReady [0x2002#64, 4#64, 0x3000#64, 10#64, 0#64, 0#64]).resampleArgs = .error .memory ∧
    (tFresh []).resamplers[resamplerIx 3].isWritten = false ∧
    (Instr.dlyStep ≠ .processStereo ∧ Instr.dlyStep ≠ .audioBlock ∧
      ∀ u, Instr.dlyStep ≠ .rsDownsample u ∧ Instr.dlyStep ≠ .rsUpsample u) := by decide +kernel

/-- Memory with a byte listed, and CMD of P0 empty or holding an illegal word. -/
theorem test_hyp_HostTouchWithoutCommand :
    (tReady []).p0.cmd = none ∧ ((tReady []).writeCmd .p0 0x30000001#32).p0.cmd = some 0x30000001#32 ∧
    wordLegal .p0 0x30000001#32 = false ∧ Memory.wf [(5, 1#8)] = true ∧ (6 : Nat) ≠ (5#64).toNat := by decide +kernel

/-- An act of the host on the first byte of an array: on a running command's it stops, and where ARG0 is unwritten no
array stands at address 0 and the write lands (20 R87). -/
theorem test_host_touch :
    shows (step (tTouch .processStereo (tArrays 4#64) (.writeMem 0x1000#64 0xFF#8))) (fun t => t.mem) = none ∧
    shows (step { tTouch .processStereo [] (.writeMem 0#64 0xFF#8) with
        p0 := { cmd := some (encode .processStereo), args := (argsOf []).set 4 (some 4#64), res0 := none, res1 := none } })
      (fun t => t.mem) = some [(0, 0xFF#8)] := by decide +kernel

theorem test_hyp_UnwrittenStateTakesUninit :
    ((tFresh [0#64]).accepts (.fltProcess 7) ∧ (tFresh [0#64]).argIs 0 0#64 ∧
      (tFresh [0#64]).filters[filterIx 7].isWritten = false) ∧
    ((tFresh (tRates 4#64 10#64)).accepts (.rsDownsample 3) ∧ (tFresh (tRates 4#64 10#64)).accepts (.rsUpsample 3) ∧
      (tFresh (tRates 4#64 10#64)).resamplers[resamplerIx 3].isWritten = false) ∧
    ((tFresh [0#64, 0#64, 0#64]).accepts .dlyStep ∧ (tFresh [0#64, 0#64, 0#64]).argIs 0 0#64 ∧
      (tFresh [0#64, 0#64, 0#64]).argIs 1 0#64 ∧ (tFresh [0#64, 0#64, 0#64]).argIs 2 0#64 ∧
      (tFresh [0#64, 0#64, 0#64]).len = 0) ∧
    ((tReady (tArrays 4#64)).accepts .audioBlock ∧ (tReady (tArrays 4#64)).block = none ∧
      (tReady (tArrays 4#64)).delayIndex = none) ∧
    ((tControl []).accepts .didxRead ∧ (tControl []).delayIndex = none) :=
  ⟨⟨accepts_of rfl, rfl, rfl⟩, ⟨accepts_of rfl, accepts_of rfl, rfl⟩, ⟨accepts_of rfl, rfl, rfl, rfl, rfl⟩,
   ⟨accepts_of rfl, rfl, rfl⟩, accepts_of rfl, rfl⟩

/-- The four array operands and the count stand in ARG0..ARG4, and some delay in ARG5. -/
theorem stereo_args (v0 v1 v2 v3 v4 : Reg64) :
    let s := tReady [v0, v1, v2, v3, v4, 0#64]
    s.accepts .processStereo ∧ s.accepts .audioBlock ∧ 0 < s.len ∧ s.block = none ∧
    s.argIs 0 v0 ∧ s.argIs 1 v1 ∧ s.argIs 2 v2 ∧ s.argIs 3 v3 ∧ s.argIs 4 v4 ∧ s.argIs 5 0#64 :=
  ⟨accepts_of rfl, accepts_of rfl, by show 0 < 24; decide, rfl, rfl, rfl, rfl, rfl, rfl, rfl⟩

/-- The six operands of a resampler command stand in ARG0..ARG5. -/
theorem resample_args (v0 v1 v2 v3 v4 v5 : Reg64) :
    let s := tReady [v0, v1, v2, v3, v4, v5]
    s.accepts (.rsDownsample 3) ∧ s.accepts (.rsUpsample 3) ∧
    s.argIs 0 v0 ∧ s.argIs 1 v1 ∧ s.argIs 2 v2 ∧ s.argIs 3 v3 ∧ s.argIs 4 v4 ∧ s.argIs 5 v5 :=
  ⟨accepts_of rfl, accepts_of rfl, rfl, rfl, rfl, rfl, rfl, rfl⟩

/-- Operands (with `stereo_args`, `resample_args`) that are misaligned, one element past the top of the address space,
overlapping in each forbidden way; and a count below zero checked as zero. -/
theorem test_hyp_ArrayChecksTakeMemory :
    (0x1002#64).toNat % 4 ≠ 0 ∧
    (0 < (lowHalf 2#64).toInt.toNat ∧
      2 ^ 64 - 1 < (0xFFFFFFFFFFFFFFFC#64).toNat + 4 * (lowHalf 2#64).toInt.toNat - 1) ∧
    ¬ (2 ^ 64 - 1 < (0xFFFFFFFFFFFFFFFC#64).toNat + 4 * (lowHalf 1#64).toInt.toNat - 1) ∧
    overlap (0x1020#64).toNat 4 (0x102C#64).toNat 4 = true ∧ overlap (0x1020#64).toNat 4 (0x1030#64).toNat 4 = false ∧
    (0x1000#64 ≠ 0x1004#64 ∧ overlap (0x1000#64).toNat 4 (0x1004#64).toNat 4 = true) ∧
    (lowHalf 0xFFFFFFFF#64).toInt.toNat = 0 ∧
    overlap (0x2000#64).toNat (lowHalf 4#64).toInt.toNat (0x200C#64).toNat (lowHalf 1#64).toInt.toNat = true := by
  decide +kernel

/-- The allowed side (with `stereo_args`, `resample_args`): in place on both sides, `inL` on `inR`, arrays that touch, the
last array of the address space, and no elements at any aligned base; rates of 48000 and 24000. -/
theorem test_hyp_ArrayChecksAllowed :
    ([(0x1000, 0x1000, 0x1000, 0x1010, 0), (0x1000, 0x1010, 0x1000, 0x1010, 4), (0x1000, 0x1000, 0x1010, 0x1020, 4),
      (0xFFFFFFFFFFFFFFF0, 0x1000, 0x1020, 0x1030, 4)].all fun (q : Nat × Nat × Nat × Nat × Nat) =>
        let n := q.2.2.2.2
        let apart (b c : Nat) : Bool := n == 0 || decide (b + 4 * n ≤ c) || decide (c + 4 * n ≤ b)
        ([q.1, q.2.1, q.2.2.1, q.2.2.2.1].all fun v => v % 4 == 0 && (n == 0 || decide (v + 4 * n ≤ 2 ^ 64))) &&
          apart q.2.2.1 q.2.2.2.1 && apart q.2.2.1 q.2.1 && apart q.2.2.2.1 q.1 &&
          (q.1 == q.2.2.1 || apart q.1 q.2.2.1) && (q.2.1 == q.2.2.2.1 || apart q.2.1 q.2.2.2.1)) = true ∧
    (0x2000 + 4 * 4 ≤ 0x2010 ∧ 0x2010 + 4 * 10 ≤ 2 ^ 64) ∧
    [0x40E7700000000000#64, 0x40D7700000000000#64, div64 [] 0x40E7700000000000#64 0x40D7700000000000#64].all (fun r =>
      isFinite64 r && gt64 r 0#64) = true := by decide +kernel

/-- 20 R79 (a): processing in place is allowed on both sides, and `inL` may overlap `inR`. -/
theorem test_in_place :
    shows (exec .processStereo (tReady [0x1000#64, 0x1010#64, 0x1000#64, 0x1010#64, 4#64, 0#64])) State.statusWord =
      some 0x01#32 ∧
    shows (exec .processStereo (tReady [0x1000#64, 0x1004#64, 0x1020#64, 0x1030#64, 4#64, 0#64])) State.statusWord =
      some 0x01#32 := by decide +kernel

/-- Each condition of the scalar rows at its boundary: the rate 20000, `maxDelayMs` 0, `fs` 0, an infinite `fc`, `fc`
-1, `fc` at half the rate, the indices -1 and 6, the control value 2. -/
theorem test_hyp_ScalarOperandPreconditions :
    ((tFresh [0x40D3880000000000#64, 1#64]).accepts .prepare ∧
      (tFresh [0x40D3880000000000#64, 1#64]).argIs 0 0x40D3880000000000#64 ∧
      (tFresh [0x40D3880000000000#64, 1#64]).argIs 1 1#64) ∧
    (gt64 0x40D3880000000000#64 minHostRate = false ∧ isFinite64 0x7FF0000000000000#64 = false ∧
      (lowHalf 0#64).toInt < 1) ∧
    ((tFresh [0#64, 0#64]).accepts (.fltSetcoef 7 .hp) ∧ (tFresh [0#64, 0#64]).argIs 0 0#64 ∧
      (tFresh [0#64, 0#64]).argIs 1 0#64) ∧
    (gt64 0#64 0#64 = false ∧ isFinite64 0x7FF8000000000000#64 = false ∧ lt64 0xBFF0000000000000#64 0#64 = true ∧
      lt64 0x40C7700000000000#64 (div64 [] 0x40D7700000000000#64 two64) = false) ∧
    ((tControl [6#64]).accepts .didxWrite ∧ (tControl [6#64]).argIs 0 6#64 ∧ 5 < (lowHalf 6#64).toInt ∧
      (lowHalf 0xFFFFFFFF#64).toInt < 0) ∧
    ((tFresh [2#64]).accepts .testctlWrite ∧ (tFresh [2#64]).argIs 0 2#64 ∧ 1 < (lowHalf 2#64).toNat) :=
  ⟨⟨accepts_of rfl, rfl, rfl⟩, by decide +kernel, ⟨accepts_of rfl, rfl, rfl⟩, by decide +kernel,
   ⟨accepts_of rfl, rfl, by decide, by decide⟩, accepts_of rfl, rfl, by decide⟩

/-- With `stereo_args` and `resample_args`: a count of -1, and rates whose ratio is not finite or not positive. -/
theorem test_hyp_ArrayCommandPreconditions :
    ([0x1000#64, 0x1010#64, 0x1020#64, 0x1030#64].all (fun v => v.toNat % 4 == 0) = true ∧
      (lowHalf 0xFFFFFFFF#64).toInt < 0) ∧
    (memCheck (0x2000#64).toNat 4 = .ok () ∧ memCheck (0x3000#64).toNat 10 = .ok () ∧
      overlap (0x2000#64).toNat 4 (0x3000#64).toNat 10 = false) ∧
    (¬ (isFinite64 0x7FF0000000000000#64 = true ∧ gt64 0x7FF0000000000000#64 0#64 = true) ∧
      ¬ (isFinite64 0#64 = true ∧ gt64 0#64 0#64 = true) ∧
      (let q := div64 [] 0x7FE0000000000000#64 0x0010000000000000#64
       ¬ (isFinite64 q = true ∧ gt64 q 0#64 = true)) ∧
      (let q := div64 [] 0x0010000000000000#64 0x7FE0000000000000#64
       ¬ (isFinite64 q = true ∧ gt64 q 0#64 = true))) := by decide +kernel

/-- 402 ms is the least length that does not fit 9624 words. -/
theorem test_hyp_AllocFaultEndsSession :
    let s := tFresh [0x40E7700000000000#64, 402#64]
    s.accepts .prepare ∧ s.argIs 0 0x40E7700000000000#64 ∧ s.argIs 1 402#64 ∧
    isFinite64 0x40E7700000000000#64 = true ∧ gt64 0x40E7700000000000#64 minHostRate = true ∧
    1 ≤ (lowHalf 402#64).toInt ∧ (s.params.delayRamWords : Int) < 24 * (lowHalf 402#64).toInt :=
  ⟨accepts_of rfl, rfl, rfl, by decide +kernel⟩

/-- 401 ms just fits; the least rate above 20000 is accepted. -/
theorem test_hyp_PrepareCompletes :
    let s := tFresh [0x40D3880000000001#64, 401#64]
    s.accepts .prepare ∧ s.argIs 0 0x40D3880000000001#64 ∧ s.argIs 1 401#64 ∧
    isFinite64 0x40D3880000000001#64 = true ∧ gt64 0x40D3880000000001#64 minHostRate = true ∧
    1 ≤ (lowHalf 401#64).toInt ∧ 24 * (lowHalf 401#64).toInt ≤ (s.params.delayRamWords : Int) :=
  ⟨accepts_of rfl, rfl, rfl, by decide +kernel⟩

/-- Prepared and not. -/
theorem test_hyp_ResetClearsHistory :
    (tReady []).accepts .reset ∧ 0 < (tReady []).len ∧ (tFresh []).accepts .reset ∧ (tFresh []).len = 0 :=
  ⟨accepts_of rfl, by decide, accepts_of rfl, rfl⟩

theorem test_hyp_UnpreparedProcessStereoIsNoOp :
    ((tFresh []).len = 0 ∧ (tFresh []).active = .p0 ∧ (tFresh []).fault = none) ∧
    ((tDead []).len = 0 ∧ (tDead []).active = .p0 ∧ (tDead []).fault ≠ none) ∧
    ((tControl []).len = 0 ∧ (tControl []).active = .p1) := by decide

/-- With four samples and with none. -/
theorem test_hyp_ProcessStereoCompletes :
    ∀ p ∈ [(4#64, 4), (0#64, 0)],
      (tReady (tArrays p.1)).accepts .processStereo ∧ (tReady (tArrays p.1)).canonical = true ∧
      (tReady (tArrays p.1)).sessionOk = true ∧ 0 < (tReady (tArrays p.1)).len ∧
      (tReady (tArrays p.1)).stereoReady (tStereo p.2) ∧ (tReady (tArrays p.1)).argI32 5 = .ok 0 := by
  unfold State.stereoReady State.accepts; decide +kernel

theorem test_hyp_BlockFollowsTheSignalPath : ∃ e, (tReady (tArrays 4#64)).engine = .ok e := ⟨_, rfl⟩

theorem test_hyp_DlyStepCompletes :
    let s := tReady [0x3F000000#64, 0x3E800000#64, 0#64]
    s.accepts .dlyStep ∧ s.sessionOk = true ∧ 0 < s.len ∧ s.argIs 0 0x3F000000#64 ∧ s.argIs 1 0x3E800000#64 ∧
    s.argIs 2 0#64 :=
  ⟨accepts_of rfl, by decide +kernel, by decide, rfl, rfl, rfl⟩

/-- The bound of LEN, and a delay of a whole LEN. -/
theorem test_hyp_ReadPositionIsInRange :
    0 < 24 ∧ 23 < 24 ∧ ((24 : Nat) : Int) ∣ -48 ∧ readPos 23 (-48) 24 = 23 := by decide

/-- A delay line with both cells of a buffer of two in use. -/
def tLine (writePos : Nat) (bufL bufR : List (Nat × F32)) : DelayLine :=
  let f : FilterRegs := { a := 0x3F000000#32, kind := .lp, yPrev := 0#32, xPrev := 0#32 }
  { len := 2, writePos := writePos, bufL := bufL, bufR := bufR, hpL := f, hpR := f, lpL := f, lpR := f }

/-- The oldest and the newest word that a run of two steps leaves. -/
theorem test_hyp_DelayLineDelays :
    let l := tLine 1 [(1, 0x3F800000#32)] []
    let xs : List (F32 × F32) := [(1#32, 2#32), (3#32, 4#32)]
    cellsWf l.bufL = true ∧ cellsWf l.bufR = true ∧ l.writePos < l.len ∧
    (∀ j ∈ [1, 2], 1 ≤ j ∧ j ≤ l.len ∧ j ≤ xs.length) ∧
    xs[xs.length - 1]? = some (3#32, 4#32) ∧ xs[xs.length - 2]? = some (1#32, 2#32) := by decide

/-- Two lines whose cursors stand at different places over the same past. -/
theorem test_hyp_DelayLineIsPositionFree :
    let l := tLine 0 [(0, 7#32), (1, 9#32)] []
    let m := tLine 1 [(0, 9#32), (1, 7#32)] []
    cellsWf l.bufL = true ∧ cellsWf l.bufR = true ∧ cellsWf m.bufL = true ∧ cellsWf m.bufR = true ∧
    l.writePos < l.len ∧ m.writePos < m.len ∧
    (l.len = m.len ∧ l.hpL = m.hpL ∧ l.hpR = m.hpR ∧ l.lpL = m.lpL ∧ l.lpR = m.lpR ∧
      ∀ j : Nat, j < l.len →
        cellsGet l.bufL (readPos l.writePos j l.len) = cellsGet m.bufL (readPos m.writePos j m.len) ∧
        cellsGet l.bufR (readPos l.writePos j l.len) = cellsGet m.bufR (readPos m.writePos j m.len)) := by
  refine ⟨by decide, by decide, by decide, by decide, by decide, by decide, rfl, rfl, rfl, rfl, rfl, ?_⟩
  intro j hj
  rcases j with _ | _ | j
  · exact ⟨by decide, by decide⟩
  · exact ⟨by decide, by decide⟩
  · exact absurd hj (by show ¬ j + 1 + 1 < 2; omega)

/-- The shortest session, and a delay at each side of each bound; 400 ms in buffers of 400 and of 401 ms. -/
theorem test_hyp_DelayIsClamped :
    24 ≤ 24 ∧ (1 ≤ 24 * (1 : Int) ∧ 24 * (1 : Int) ≤ ((48 : Nat) : Int) - 1) ∧ 24 * (0 : Int) < 1 ∧
    ((24 : Nat) : Int) - 1 < 24 * 1 ∧ 1 ≤ 400 ∧ delayTableMs 5 = 400 ∧
    delaySamples (delayTableMs 5) (24 * 400) = 9599 ∧ delaySamples (delayTableMs 5) (24 * 401) = 9600 := by decide

theorem test_hyp_DownsampledChannelsStayAligned :
    let r : ResamplerRegs := { phase := 0#64, last := 0#32 }
    let q : ResamplerRegs := { phase := 0#64, last := 0x3F800000#32 }
    isFinite64 0x4000000000000000#64 = true ∧ isNan64 r.phase = false ∧ r.phase = q.phase ∧
    [0x3F800000#32, 0x40000000#32].length = [0x7FC00000#32, 0#32].length := by decide +kernel

/-- A PHASE below 1.0 and one at 1.0, on either side of each test. -/
theorem test_hyp_ResamplersFollowTheirLoops :
    lt64 0#64 one64 = true ∧ lt64 one64 one64 = false ∧ ge64 0#64 one64 = false ∧ ge64 one64 one64 = true := by
  decide +kernel

/-- The operands are `test_resampleReady`'s. -/
theorem test_hyp_ResamplersComplete :
    let s : State := { tFresh (tRates 4#64 10#64) with resamplers := Vector.replicate 4 ResamplerUnit.cleared }
    s.accepts (.rsDownsample 3) ∧ s.accepts (.rsUpsample 3) ∧ s.canonical = true ∧
    s.resampleReady (tRatio 4 10) 0x40E7700000000000#64 0x40D7700000000000#64 ∧
    s.resamplers[resamplerIx 3] = ({ phase := 0#64, last := 0#32 } : ResamplerRegs).toUnit :=
  ⟨accepts_of rfl, accepts_of rfl, by decide +kernel, by unfold State.resampleReady; decide +kernel, by decide +kernel⟩

theorem test_hyp_UnitResetsComplete :
    (tFresh []).accepts (.fltReset 7) ∧ (tFresh []).accepts (.rsReset 3) := ⟨accepts_of rfl, accepts_of rfl⟩

/-- `fc` just below half the rate, and `fc` a zero of either sign. -/
theorem test_hyp_FltSetcoefCompletes :
    (tFresh [0x40D7700000000000#64, 0x40C76F8000000000#64]).accepts (.fltSetcoef 7 .lp) ∧
    (tFresh [0x40D7700000000000#64, 0x40C76F8000000000#64]).argIs 0 0x40D7700000000000#64 ∧
    (tFresh [0x40D7700000000000#64, 0x40C76F8000000000#64]).argIs 1 0x40C76F8000000000#64 ∧
    isFinite64 0x40D7700000000000#64 = true ∧ gt64 0x40D7700000000000#64 0#64 = true ∧
    [0x40C76F8000000000#64, 0#64, 0x8000000000000000#64].all (fun fc => isFinite64 fc && !lt64 fc 0#64 &&
      lt64 fc (div64 [] 0x40D7700000000000#64 two64)) = true :=
  ⟨accepts_of rfl, rfl, rfl, by decide +kernel⟩

/-- A high-pass and a low-pass unit. -/
theorem test_hyp_FltProcessCompletes :
    let s := tReady [0x3F800000#64]
    s.accepts (.fltProcess 4) ∧ s.accepts (.fltProcess 7) ∧ s.argIs 0 0x3F800000#64 ∧
    s.filters[filterIx 4] = ({ a := 0x3F7AB1B1#32, kind := .hp, yPrev := 0#32, xPrev := 0#32 } : FilterRegs).toUnit ∧
    s.filters[filterIx 7] = ({ a := 0x3DC21C22#32, kind := .lp, yPrev := 0#32, xPrev := 0#32 } : FilterRegs).toUnit :=
  ⟨accepts_of rfl, accepts_of rfl, rfl, by decide +kernel, by decide +kernel⟩

theorem test_hyp_NanPoisonsFilter : isNan32 0x7FC00000#32 = true ∧ isNan32 0x7F800001#32 = true := by decide +kernel

/-- PEAK_UPDATE; PEAK_READ on either port, and on P1 in a dead session. -/
theorem test_hyp_PeakCommandsComplete :
    ((tFresh [0x3F000000#64]).accepts (.peakUpdate 3) ∧ (tFresh [0x3F000000#64]).argIs 0 0x3F000000#64) ∧
    (tFresh []).accepts (.peakRead 3) ∧ ({ tControl [] with fault := some .memory } : State).accepts (.peakRead 3) :=
  ⟨⟨accepts_of rfl, rfl⟩, accepts_of rfl, accepts_of rfl⟩

theorem test_hyp_PeaksStayNonNegative :
    let s := (tFresh [0xBF000000#64]).writeCmd .p0 (encode (.peakUpdate 0))
    paramsAdmitted s.params = true ∧ s.peaksOk = true ∧ ∃ t, step s = .next t ∧ t.peaks[0] = 0x3F000000#32 :=
  ⟨by decide +kernel, by decide +kernel, next_of_shows (by decide +kernel)⟩

/-- Peak 0, a peak equal to the sample's magnitude, and a NaN sample. -/
theorem test_hyp_PeakDecayNeverRises :
    [(0#32, 0x80000000#32), (0x3F000000#32, 0xBF000000#32), (0x3F000000#32, 0x7FC00000#32)].all (fun q =>
      ge32 q.1 0#32 && !gt32 (abs32 q.2) q.1) = true := by decide +kernel

/-- The least and the largest index, and each control value. -/
theorem test_hyp_ControlRegisterCommandsComplete :
    ((tControl [0#64]).accepts .didxWrite ∧ (tControl [0#64]).argIs 0 0#64 ∧ (lowHalf 0#64).toInt = ((0 : Fin 6).val : Int)) ∧
    ((tFresh [5#64]).accepts .didxWrite ∧ (tFresh [5#64]).argIs 0 5#64 ∧ (lowHalf 5#64).toInt = ((5 : Fin 6).val : Int)) ∧
    (({ tFresh [] with delayIndex := some 5 } : State).accepts .didxRead ∧
      ({ tFresh [] with delayIndex := some 5 } : State).delayIndex = some 5) ∧
    ((tFresh [0#64]).accepts .testctlWrite ∧ (tFresh [0#64]).argIs 0 0#64 ∧ (lowHalf 0#64).toNat ≤ 1) ∧
    ((tFresh [1#64]).accepts .testctlWrite ∧ (tFresh [1#64]).argIs 0 1#64 ∧ (lowHalf 1#64).toNat ≤ 1) :=
  ⟨⟨accepts_of rfl, rfl, by decide⟩, ⟨accepts_of rfl, rfl, by decide⟩, ⟨accepts_of rfl, rfl⟩,
   ⟨accepts_of rfl, rfl, by decide⟩, accepts_of rfl, rfl, by decide⟩

/-- On P0 in a dead session, and on P1. -/
theorem test_hyp_StatusReadCompletes : (tDead []).accepts .statusRead ∧ (tControl []).accepts .statusRead :=
  ⟨accepts_of rfl, accepts_of rfl⟩

/-- With samples and with none; the session invariant holds besides. -/
theorem test_hyp_AudioBlockStarts_and_Ends :
    ∀ p ∈ [(4#64, 4), (0#64, 0)],
      let s : State := { tReady (tArrays p.1) with delayIndex := some 5 }
      s.accepts .audioBlock ∧ s.block = none ∧ s.sessionOk = true ∧ s.stereoReady (tStereo p.2) ∧
      s.delayIndex = some 5 := by
  unfold State.stereoReady State.accepts; decide +kernel

/-- The first and the last element of each of the four meter sub-steps. -/
theorem test_hyp_AudioBlockMeters :
    ∀ st ∈ [BlockStage.meterIn 0 .left, .meterIn 3 .right, .meterOut 0 .left, .meterOut 3 .right],
      let s : State := { tReady [] with block := some (tBlock st) }
      s.active = .p0 ∧ s.block = some (tBlock st) ∧ (tBlock st).stage = st := by decide +kernel

/-- Prepared, and after an ALLOC fault on the way. -/
theorem test_hyp_AudioBlockProcesses :
    (let s : State := { tReady [] with block := some (tBlock .process) }
     s.active = .p0 ∧ s.block = some (tBlock .process) ∧ (tBlock .process).stage = .process ∧ s.sessionOk = true ∧
     0 < s.len) ∧
    (let s : State := { tFresh [] with block := some (tBlock .process) }
     s.active = .p0 ∧ s.block = some (tBlock .process) ∧ s.sessionOk = true ∧ s.len = 0) := by decide +kernel

theorem test_hyp_ControlPortReachesOnlySharedState :
    (tControl [3#64]).active = .p1 ∧ ∃ t, exec .didxWrite (tControl [3#64]) = .next t ∧ t.delayIndex = some 3 :=
  ⟨rfl, next_of_shows (by decide +kernel)⟩

theorem test_hyp_OnlyTheirCommandsWriteMemoryAndSession :
    let s : State := { tReady [0x3F000000#64, 0x3E800000#64, 0#64] with mem := [(5, 1#8)] }
    (Instr.dlyStep ≠ .processStereo ∧ Instr.dlyStep ≠ .audioBlock ∧ (∀ u, Instr.dlyStep ≠ .rsDownsample u) ∧
      (∀ u, Instr.dlyStep ≠ .rsUpsample u) ∧ Instr.dlyStep ≠ .prepare) ∧
    ∃ t, exec .dlyStep s = .next t ∧ t.writePos = some 1 :=
  ⟨⟨by decide, by decide, by decide, by decide, by decide⟩, next_of_shows (by decide +kernel)⟩

/-- PREPARE with the parameter 401 ms about to run in a running session, which changes every field the invariants
speak of. -/
def tBefore : State := (tReady [0x40E7700000000000#64, 401#64]).writeCmd .p0 (encode .prepare)

theorem test_hyp_invariants :
    tBefore.canonical = true ∧ tBefore.sessionOk = true ∧ tBefore.testctlOk = true ∧ tBefore.coefsOk = true ∧
    ∃ t, step tBefore = .next t ∧ t.len = 9624 :=
  ⟨by decide +kernel, by decide +kernel, by decide +kernel, by decide +kernel, next_of_shows (by decide +kernel)⟩

/-- A dead session with a block in progress. -/
theorem test_hyp_PowerCycleRestoresPowerOn :
    let s : State := { tTouch .audioBlock [] .powerCycle with fault := some .memory, block := some (tBlock .process) }
    s.inputs = .powerCycle :: [] ∧ ∃ t, step s = .next t ∧ t.fault = none ∧ t.block = none ∧ t.len = 0 :=
  ⟨rfl, next_of_shows (by decide +kernel)⟩

/-- A step of host memory, and the last meter sub-step of a block. -/
theorem test_hyp_MemoryStaysCanonical :
    let s : State := { tReady [] with inputs := [.writeMem 0xFFFFFFFFFFFFFFFF#64 1#8] }
    s.canonical = true ∧ ∃ t, step s = .next t ∧ t.byteAt (2 ^ 64 - 1) = 1#8 :=
  ⟨by decide +kernel, next_of_shows (by decide +kernel)⟩

theorem test_hyp_BlockInProgressStaysLegal :
    let s : State := { (tReady []).writeCmd .p0 (encode .audioBlock) with block := some (tBlock (.meterOut 3 .right)) }
    s.blockOk = true ∧ ∃ t, step s = .next t ∧ t.block = none ∧ t.p0.cmd = none :=
  ⟨by decide +kernel, next_of_shows (by decide +kernel)⟩

theorem test_hyp_ElementsReadBackInByteOrder : Memory.wf (tMem 0x1000 [0x3F800000#32]) = true ∧ 3 < 4 := by decide

end Sys2Proof.Tests
end

/-! ## Scope: what a draw can be, and the invariants at power-on (00 R9 to R14, R21; 10 R38, R54) -/

namespace Sys2Proof.Machine

section Draws

/-- Every draw lies in `[-1.0, 1.0]`: a free value outside is not taken (00 R21). -/
theorem draw_inRange (norand : Bool) (p : Site) :
    ge32 (draw norand p) minusOne32 = true ∧ ge32 one32 (draw norand p) = true := by
  have zero_inRange : ge32 0#32 minusOne32 = true ∧ ge32 one32 0#32 = true := by decide
  unfold draw
  split
  · exact zero_inRange
  · split
    next h => exact Bool.and_eq_true_iff.mp h
    next => exact zero_inRange

/-- Under NORAND a draw is +0.0 (10 R38). -/
@[simp] theorem draw_norand (p : Site) : draw true p = 0#32 := rfl

/-- Under NORAND all six draws of a delay step are +0.0 (10 R38). -/
theorem drawsAt_norand (p : Site) :
    drawsAt true p = { dL1 := 0#32, dL2 := 0#32, nL := 0#32, dR1 := 0#32, dR2 := 0#32, nR := 0#32 } := by
  simp [drawsAt]

/-- +0.0 plus +0.0 is +0.0 (00 R18). -/
theorem add32_zero_zero (p : Site) : add32 p 0#32 0#32 = 0#32 := by
  have hsum : addBits fmt32 (0#32).toNat (0#32).toNat = some 0 := by decide
  rw [add32, hsum, result32]

/-- A finite binary32 without a sign is neither a NaN nor an infinity, and its bits are its magnitude. -/
theorem classify_of_lt_infMag {b : Nat} (h : b < fmt32.infMag) :
    isNanBits fmt32 b = false ∧ isInfBits fmt32 b = false ∧ isNeg fmt32 b = false := by
  have hinf : fmt32.infMag < fmt32.signBit := by decide
  have hmag : magOf fmt32 b = b := Nat.mod_eq_of_lt (h.trans hinf)
  simp only [isNanBits, isInfBits, isNeg, hmag, decide_eq_false_iff_not, beq_eq_false_iff_ne]
  omega

/-- +0.0 times a finite value without a sign is +0.0 (00 R18). -/
theorem mul32_zero_left (p : Site) {b : F32} (h : b.toNat < fmt32.infMag) : mul32 p 0#32 b = 0#32 := by
  obtain ⟨hnan, hinf, hneg⟩ := classify_of_lt_infMag h
  obtain ⟨hnan0, hinf0, hneg0⟩ := classify_of_lt_infMag (b := 0) (by decide)
  have hround : roundMag fmt32 (units fmt32 (magOf fmt32 0) * units fmt32 (magOf fmt32 b.toNat))
      (2 ^ fmt32.scale) = 0 :=
    Nat.le_zero.mp (roundMag_le_of_le (Nat.two_pow_pos _) (by simp [magOf, units]))
  have hprod : mulBits fmt32 (0#32).toNat b.toNat = some 0 := by
    simp [mulBits, hnan, hinf, hneg, hnan0, hinf0, hneg0, hround, packBits]
  rw [mul32, hprod, result32]

end Draws

section PowerOn

/-- What a machine takes as `PEAK_INIT[c]` is not a NaN and not below zero (00 R14). -/
theorem admittedPeak_nonneg (bits : BitVec 32) : ge32 (admittedPeak bits) 0#32 = true := by
  have hinf : fmt32.infMag = 0x7F800000 := by decide
  have hsign : fmt32.signBit = 0x80000000 := by decide
  unfold admittedPeak
  split
  next h =>
    rcases h with hle | rfl
    · have hmag : magOf fmt32 bits.toNat = bits.toNat := Nat.mod_eq_of_lt (by omega)
      refine ge32_zero_iff.mpr ⟨?_, fun hneg => ?_⟩
      · simp only [isNan32, isNanBits, hmag, hinf, decide_eq_false_iff_not]; omega
      · simp only [isNeg, hsign, decide_eq_true_eq] at hneg; omega
    · decide
  next => decide

/-- The machine's parameters are admitted ones (00 R9, R10, R14). -/
theorem machineParams_admitted : paramsAdmitted machineParams = true := by
  simp [paramsAdmitted, machineParams, admittedPeak_nonneg]

variable (c : Params)

/-- Nothing is listed in host memory or in a delay RAM at power-on. -/
theorem powerOn_canonical : (State.powerOn c).canonical = true := rfl

/-- At power-on LEN is 0: no session, whatever the parameters (10 R54). -/
theorem powerOn_sessionOk : (State.powerOn c).sessionOk = true :=
  sessionOk_iff.mpr ⟨Nat.zero_le _, .inl rfl⟩

/-- The peaks start from `PEAK_INIT`, so admitted parameters make them non-negative (00 R14, 10 R54). -/
theorem powerOn_peaksOk {c : Params} (h : paramsAdmitted c = true) : (State.powerOn c).peaksOk = true :=
  (Bool.and_eq_true_iff.mp h).2

/-- TESTCTL is 0 at power-on (10 R54). -/
theorem powerOn_testctlOk : (State.powerOn c).testctlOk = true :=
  decide_eq_true (by decide : (0#32).extractLsb' 1 31 = 0#31)

/-- At power-on no filter has a coefficient (10 R54). -/
theorem powerOn_coefsOk : (State.powerOn c).coefsOk = true := by
  simp [State.coefsOk, State.powerOn, FilterUnit.unwritten]

/-- At power-on no block is in progress. -/
theorem powerOn_blockOk : (State.powerOn c).blockOk = true := rfl

/-- FAULT_LOG is empty at power-on (60 R238). -/
theorem powerOn_clean : (State.powerOn c).clean = true := rfl

end PowerOn

/-- Settles O46: the range from `draw_inRange`; under NORAND the sums and products of the +0.0 draws are +0.0. -/
theorem drawsStayInRangeAndNorandSilencesThem : Obligations.DrawsStayInRangeAndNorandSilencesThem := by
  unfold Obligations.DrawsStayInRangeAndNorandSilencesThem
  refine ⟨draw_inRange, fun p q => ⟨draw_norand p, drawsAt_norand p, ?dither, ?noise⟩⟩
  case dither =>
    rw [draw_norand, draw_norand, add32_zero_zero]
    exact mul32_zero_left p (by decide)
  case noise =>
    rw [draw_norand]
    exact mul32_zero_left p (by decide)

/-- Settles O59: every invariant holds after power-on with any admitted parameters, and the machine's are admitted. -/
theorem powerOnMeetsTheInvariants : Obligations.PowerOnMeetsTheInvariants :=
  ⟨powerOn_canonical _, powerOn_sessionOk _, powerOn_peaksOk machineParams_admitted, powerOn_testctlOk _,
   powerOn_coefsOk _, powerOn_blockOk _, machineParams_admitted, powerOn_clean _⟩

end Sys2Proof.Machine

/-! ## State: what every step keeps of the session, of TESTCTL and of the coefficients, ARGs that were never written,
and the state at power-on (10 R31, R37, R41, R42, R52, R54; 40 R130, R135) -/

namespace Sys2Proof.Machine

section Invariants

/-- The two states agree on every register but the ports', the delay index, the block in progress and the log: what the
host's acts and the schedule leave alone. -/
structure SameUnits (s t : State) : Prop where
  params : t.params = s.params
  fault : t.fault = s.fault
  testctl : t.testctl = s.testctl
  hostRate : t.hostRate = s.hostRate
  len : t.len = s.len
  writePos : t.writePos = s.writePos
  filters : t.filters = s.filters
  resamplers : t.resamplers = s.resamplers
  bufL : t.bufL = s.bufL
  bufR : t.bufR = s.bufR
  peaks : t.peaks = s.peaks

theorem sameUnits_setPort (s : State) (p : Port) (r : PortRegs) : SameUnits s (s.setPort p r) := by
  constructor <;> simp

theorem sameUnits_retire (s : State) (p : Port) (i : Instr) : SameUnits s (s.retire p i) := by
  unfold State.retire
  split
  · constructor <;> rfl
  · exact sameUnits_setPort s p _

/-- A property of states that everything a step is made of keeps (20 R83, R84): the acts that leave the units alone, a
fault, a meter, a block's processing, a command's own effect, and the return to power-on. -/
structure IsInvariant (P : State → Prop) : Prop where
  same : ∀ {s t}, SameUnits s t → P s → P t
  faultEntry : ∀ {s} (p w c), P s → P (s.faultEntry p w c)
  peakUpdate : ∀ {s} (c x), P s → P (s.peakUpdate c x)
  stereoBlock : ∀ {s t a ms}, s.stereoBlock a ms = .ok t → P s → P t
  command : ∀ {i s t}, commandBody i s = .ok t → P s → P t
  powerOn : ∀ {s}, P s → P (State.powerOn s.params)

namespace IsInvariant

variable {P : State → Prop} (hP : IsInvariant P) {s t : State}

include hP

theorem advanceBlock (b : Block) (next : Option BlockStage) (hs : P s) : P (s.advanceBlock b next) :=
  hP.same (by constructor <;> rfl) hs

/-- Every sub-step of a block keeps an invariant (44 R211). -/
theorem audioSubStep (b : Block) (hs : P s) : P (audioSubStep b s) := by
  unfold Machine.audioSubStep
  split
  case h_1 => exact hP.advanceBlock _ _ (hP.peakUpdate _ _ hs)
  case h_2 =>
    split
    case h_1 t ht =>
      unfold State.processBlock at ht
      split at ht
      · exact hP.advanceBlock _ _ (hP.stereoBlock ht hs)
      · cases ht; exact hP.advanceBlock _ _ hs
    case h_2 => exact hP.advanceBlock _ _ (hP.faultEntry _ _ _ hs)
  case h_3 => exact hP.advanceBlock _ _ (hP.peakUpdate _ _ hs)

/-- The shared order of tests keeps an invariant that the command's own effect keeps (60 R237). -/
theorem runCommand {i : Instr} (h : runCommand i s (commandBody i s) = .next t) (hs : P s) : P t := by
  rcases runCommand_cases i s (commandBody i s) with ⟨h', -⟩ | ⟨h', -⟩ | ⟨-, u, hu, h'⟩ | ⟨-, c, -, h'⟩ <;>
    rw [h'] at h <;> cases h
  · exact hP.faultEntry _ _ _ hs
  · exact hP.same (by constructor <;> rfl) hs
  · exact hP.command hu hs
  · exact hP.faultEntry _ _ _ hs

/-- Every command keeps an invariant. -/
theorem exec {i : Instr} (h : exec i s = .next t) (hs : P s) : P t := by
  by_cases hr : s.resumes i
  · obtain ⟨rfl, ha, hb⟩ := hr
    obtain ⟨b, hb⟩ := Option.isSome_iff_exists.1 hb
    rw [exec_of_resumes ha hb] at h
    cases h; exact hP.audioSubStep b hs
  · rw [exec_eq i s hr] at h
    exact hP.runCommand h hs

/-- Every step of a port keeps an invariant. -/
theorem portStep {p : Port} (h : portStep p s = .next t) (hs : P s) : P t := by
  rcases portStep_cases h with ⟨rfl, -⟩ | ⟨w, -, -, rfl⟩ | ⟨w, i, u, -, -, hu, rfl⟩
  · exact hs
  · exact hP.same (sameUnits_setPort _ _ _) (hP.faultEntry p w .illegal hs)
  · exact hP.same (sameUnits_retire u p i) (hP.exec hu (hP.same (by constructor <;> rfl) hs))

/-- Every step of the whole keeps an invariant. -/
theorem step (h : step s = .next t) (hs : P s) : P t := by
  rcases step_cases h with ⟨p, s₀, hp, -, hs₀⟩ | ⟨p, k, v, -, -, rfl⟩ | ⟨p, w, -, -, rfl⟩ | rfl | ⟨a, b, rfl⟩ | ⟨-, rfl⟩
  · have same : SameUnits s s₀ := by rcases hs₀ with rfl | rfl | rfl <;> constructor <;> rfl
    exact hP.portStep hp (hP.same same hs)
  · exact hP.same (sameUnits_setPort _ _ _) (hP.same (s := s) (by constructor <;> rfl) hs)
  · exact hP.same (sameUnits_setPort _ _ _) (hP.same (s := s) (by constructor <;> rfl) hs)
  · exact hP.same (by constructor <;> rfl) hs
  · exact hP.same (by constructor <;> rfl) hs
  · exact hP.same (by constructor <;> rfl) (hP.powerOn hs)

end IsInvariant

end Invariants

section DelayRun

/-- What delay steps keep of the line they run on: LEN, a cursor below it and the four coefficients (42 R170, R177). -/
structure DelayLine.Keeps (l m : DelayLine) : Prop where
  len : m.len = l.len
  writePos : l.writePos < l.len → m.writePos < l.len
  hpL : m.hpL.a = l.hpL.a
  hpR : m.hpR.a = l.hpR.a
  lpL : m.lpL.a = l.lpL.a
  lpR : m.lpR.a = l.lpR.a

theorem DelayLine.Keeps.refl (l : DelayLine) : l.Keeps l := ⟨rfl, id, rfl, rfl, rfl, rfl⟩

theorem DelayLine.Keeps.trans {l m n : DelayLine} (h : l.Keeps m) (k : m.Keeps n) : l.Keeps n :=
  ⟨k.len.trans h.len, fun hw => h.len ▸ k.writePos (h.len.symm ▸ h.writePos hw), k.hpL.trans h.hpL,
   k.hpR.trans h.hpR, k.lpL.trans h.lpL, k.lpR.trans h.lpR⟩

theorem delayStep_keeps (p : Site) (dr : Draws) (d : Int) (l : DelayLine) (x y : F32) :
    l.Keeps (delayStep p dr d l x y).2 :=
  ⟨rfl, fun hw => Nat.mod_lt _ (Nat.zero_lt_of_lt hw), rfl, rfl, rfl, rfl⟩

theorem delayRun_keeps (p : Site) (draws : Nat → Draws) (d : Int) (k : Nat) (l : DelayLine) (xs : List (F32 × F32)) :
    l.Keeps (delayRun p draws d k l xs).2 := by
  induction xs generalizing k l with
  | nil => exact .refl l
  | cons x xs ih => exact (delayStep_keeps _ _ _ _ _ _).trans (ih _ _)

/-- A filter run keeps the coefficient (40 R131). -/
@[simp] theorem filterRun_a (p : Site) (r : FilterRegs) (xs : List F32) : (filterRun p r xs).2.a = r.a := by
  induction xs generalizing r with
  | nil => rfl
  | cons x xs ih => exact ih _

end DelayRun

section Units

/-- A filter unit changes without becoming unwritten and without taking an inadmissible coefficient. -/
structure FilterUnit.StaysLegal (f g : FilterUnit) : Prop where
  written : f.isWritten = true → g.isWritten = true
  coef : f.a.all admittedCoef = true → g.a.all admittedCoef = true

theorem FilterUnit.StaysLegal.refl (f : FilterUnit) : f.StaysLegal f := ⟨id, id⟩

/-- Registers that keep the unit's coefficient may be put back. -/
theorem FilterUnit.StaysLegal.of_toUnit {f : FilterUnit} {r q : FilterRegs} (hf : f = r.toUnit) (h : q.a = r.a) :
    f.StaysLegal q.toUnit :=
  ⟨fun _ => rfl, by simp [hf, FilterRegs.toUnit, h]⟩

theorem FilterUnit.cleared_staysLegal (f : FilterUnit) : f.StaysLegal f.cleared :=
  ⟨by simp +contextual [isWritten, cleared], id⟩

/-- A resampler unit changes without becoming unwritten. -/
def ResamplerUnit.StaysWritten (r q : ResamplerUnit) : Prop := r.isWritten = true → q.isWritten = true

@[simp] theorem ResamplerRegs.toUnit_isWritten (r : ResamplerRegs) : r.toUnit.isWritten = true := rfl

@[simp] theorem ResamplerUnit.cleared_isWritten : cleared.isWritten = true := rfl

/-- `COEF_FN` gives an admitted coefficient, whatever the operands (40 R130). -/
theorem coefFn_admitted (c : CoefChoice) (fs fc : F64) : admittedCoef (coefFn c fs fc) = true := by
  have one_admitted : admittedCoef one32 = true := by decide
  unfold coefFn
  dsimp only
  split_ifs with _ hraw
  exacts [one_admitted, hraw, one_admitted]

/-- FLT_SETCOEF's change of a unit. -/
theorem FilterUnit.setCoef_staysLegal (f : FilterUnit) (c : CoefChoice) (fs fc : F64) (mode : FilterType) :
    f.StaysLegal { f with a := some (coefFn c fs fc), kind := some mode } :=
  ⟨by simp +contextual [isWritten], fun _ => coefFn_admitted c fs fc⟩

theorem preparedFilter_isWritten (c : CoefChoice) (fs : F64) (i : Fin 8) :
    (preparedFilter c fs i).isWritten = true := rfl

theorem preparedFilter_admitted (c : CoefChoice) (fs : F64) (i : Fin 8) :
    (preparedFilter c fs i).a.all admittedCoef = true := by
  simp only [preparedFilter, Option.all_some]
  split_ifs <;> exact coefFn_admitted _ _ _

/-- A relation to the old elements, place by place, is kept when one place takes an element related to its old one. -/
theorem vector_forall_set {α β : Type} {n : Nat} {R : α → β → Prop} {u : Vector α n} {v : Vector β n}
    (h : ∀ j : Fin n, R u[j] v[j]) (i : Fin n) {b : β} (hb : R u[i] b) (j : Fin n) : R u[j] (v.set i b)[j] := by
  by_cases hij : i = j
  · subst hij; simpa using hb
  · have : i.val ≠ j.val := fun e => hij (Fin.ext e)
    simpa [Vector.getElem_set_ne, this] using h j

end Units

section Advances

/-- What every command but PREPARE keeps of a session: LEN and HOST_RATE, a cursor below LEN, units that stay written
with admitted coefficients, and TESTCTL's reserved bits. -/
structure Advances (s t : State) : Prop where
  params : t.params = s.params
  len : t.len = s.len
  hostRate : t.hostRate = s.hostRate
  writePos : (∃ w, s.writePos = some w ∧ w < s.len) → ∃ w, t.writePos = some w ∧ w < s.len
  filters : ∀ j : Fin 8, s.filters[j].StaysLegal t.filters[j]
  resamplers : ∀ j : Fin 4, s.resamplers[j].StaysWritten t.resamplers[j]
  testctl : s.testctlOk = true → t.testctlOk = true

namespace Advances

variable {s t u : State}

theorem refl (s : State) : Advances s s := ⟨rfl, rfl, rfl, id, fun _ => .refl _, fun _ => id, id⟩

theorem trans_same (h : Advances s t) (k : SameUnits t u) : Advances s u where
  params := k.params.trans h.params
  len := k.len.trans h.len
  hostRate := k.hostRate.trans h.hostRate
  writePos := k.writePos ▸ h.writePos
  filters := k.filters ▸ h.filters
  resamplers := k.resamplers ▸ h.resamplers
  testctl := by simpa only [State.testctlOk, k.testctl] using h.testctl

theorem of_same (k : SameUnits s t) : Advances s t := (refl s).trans_same k

theorem setRes0 (h : Advances s t) (v : Reg64) : Advances s (t.setRes0 v) := h.trans_same (sameUnits_setPort _ _ _)

theorem setRes1 (h : Advances s t) (v : Reg64) : Advances s (t.setRes1 v) := h.trans_same (sameUnits_setPort _ _ _)

theorem tick (h : Advances s t) : Advances s t.tick := h.trans_same (by constructor <;> rfl)

/-- A session that holds goes on holding. -/
theorem sessionOk (h : Advances s t) (hs : s.sessionOk = true) : t.sessionOk = true := by
  rw [sessionOk_iff] at hs ⊢
  obtain ⟨hram, hsession⟩ := hs
  rw [h.len, h.params, h.hostRate]
  refine ⟨hram, hsession.imp_right fun ⟨hlen, hcursor, hrate, hfilters, hresamplers⟩ => ?_⟩
  exact ⟨hlen, h.writePos hcursor, hrate, fun j => (h.filters j).written (hfilters j),
    fun j => h.resamplers j (hresamplers j)⟩

end Advances

/-- Every written coefficient is admitted, unit by unit. -/
theorem coefsOk_iff {s : State} : s.coefsOk = true ↔ ∀ j : Fin 8, s.filters[j].a.all admittedCoef = true := by
  rw [State.coefsOk, Vector.all_eq_true]
  exact ⟨fun h j => h j j.isLt, fun h j hj => h ⟨j, hj⟩⟩

variable (s : State)

theorem advances_setFilter (i : Fin 8) {f : FilterUnit} (h : s.filters[i].StaysLegal f) :
    Advances s (s.setFilter i f) :=
  { Advances.refl s with filters := vector_forall_set (fun _ => .refl _) i h }

theorem advances_setResampler (i : Fin 4) {r : ResamplerUnit} (h : r.isWritten = true) :
    Advances s (s.setResampler i r) :=
  { Advances.refl s with resamplers := vector_forall_set (fun _ => id) i fun _ => h }

theorem advances_finishResample (i : Fin 4) (o : Nat) (ys : List F32) (r : ResamplerRegs) :
    Advances s (s.finishResample i o ys r) := by
  have units : Advances s (s.setResampler i r.toUnit) := advances_setResampler s i r.toUnit_isWritten
  exact ((units.trans_same (by constructor <;> rfl)).setRes0 _).tick

theorem advances_peakUpdate (c : Fin 4) (x : F32) : Advances s (s.peakUpdate c x) := { Advances.refl s with }

theorem advances_clearHistory : Advances s s.clearHistory :=
  { Advances.refl s with
    writePos := fun ⟨w, _, hw⟩ => by
      have hlen : 0 < s.len := Nat.zero_lt_of_lt hw
      exact ⟨freeCursor s.len [s.free], by simp [hlen], Nat.mod_lt _ hlen⟩
    filters := fun j => by simpa using FilterUnit.cleared_staysLegal s.filters[j]
    resamplers := fun j _ => by simp }

variable {s}

/-- Putting back a delay line that delay steps made of the state's own. -/
theorem advances_setDelayLine {l m : DelayLine} (hl : s.delayLine = .ok l) (h : l.Keeps m) :
    Advances s (s.setDelayLine m) := by
  obtain ⟨hlen, hcursor, -, -, h4, h5, h6, h7⟩ := delayLine_eq_ok hl
  refine { Advances.refl s with writePos := ?writePos, filters := ?filters }
  case writePos =>
    rintro ⟨w, hw, hlt⟩
    obtain rfl : l.writePos = w := Option.some.inj (hcursor.symm.trans hw)
    exact ⟨m.writePos, rfl, hlen ▸ h.writePos (hlen.symm ▸ hlt)⟩
  case filters =>
    have u4 := vector_forall_set (Advances.refl s).filters 4 (.of_toUnit h4 h.hpL)
    have u5 := vector_forall_set u4 5 (.of_toUnit h5 h.hpR)
    have u6 := vector_forall_set u5 6 (.of_toUnit h6 h.lpL)
    exact vector_forall_set u6 7 (.of_toUnit h7 h.lpR)

/-- Putting back an engine whose line delay steps made of the state's own and whose filters kept their coefficients. -/
theorem advances_setEngine {e f : Engine} (he : s.engine = .ok e) (hline : e.line.Keeps f.line)
    (haaL : f.aaL.a = e.aaL.a) (haaR : f.aaR.a = e.aaR.a) (hrecL : f.recL.a = e.recL.a) (hrecR : f.recR.a = e.recR.a) :
    Advances s (s.setEngine f) := by
  obtain ⟨hunits, -⟩ := engine_units he
  have line : Advances s (s.setDelayLine f.line) := advances_setDelayLine (engine_eq_ok he).2 hline
  refine { line with filters := ?filters, resamplers := ?resamplers }
  case filters =>
    have u0 := vector_forall_set line.filters 0 (.of_toUnit (by simp [hunits]) haaL)
    have u1 := vector_forall_set u0 1 (.of_toUnit (by simp [hunits]) haaR)
    have u2 := vector_forall_set u1 2 (.of_toUnit (by simp [hunits]) hrecL)
    exact vector_forall_set u2 3 (.of_toUnit (by simp [hunits]) hrecR)
  case resamplers =>
    have u0 := vector_forall_set line.resamplers 0 fun _ => f.downL.toUnit_isWritten
    have u1 := vector_forall_set u0 1 fun _ => f.downR.toUnit_isWritten
    have u2 := vector_forall_set u1 2 fun _ => f.upL.toUnit_isWritten
    exact vector_forall_set u2 3 fun _ => f.upR.toUnit_isWritten

/-- A block's filter and delay runs keep the coefficients and the cursor's range (42 R180). -/
theorem advances_finishBlock {e : Engine} (he : s.engine = .ok e) (a : StereoArrays) (ms : Int) :
    Advances s (s.finishBlock a (s.blockOutput a ms e)) :=
  (advances_setEngine he (delayRun_keeps _ _ _ _ _ _) (filterRun_a _ _ _) (filterRun_a _ _ _) (filterRun_a _ _ _)
    (filterRun_a _ _ _)).trans_same (by constructor <;> rfl)

theorem advances_stereoBlock {t : State} {a : StereoArrays} {ms : Int} (h : s.stereoBlock a ms = .ok t) :
    Advances s t := by
  obtain ⟨e, he, h⟩ := bind_eq_ok h
  cases h; exact advances_finishBlock he a ms

theorem advances_testctl {v : BitVec 32} (hv : v.extractLsb' 1 31 = 0#31) : Advances s { s with testctl := v } :=
  { Advances.refl s with testctl := fun _ => decide_eq_true hv }

/-- Every command but PREPARE keeps what `Advances` names. -/
theorem advances_commandBody {i : Instr} {u : State} (hi : i ≠ .prepare) (hu : commandBody i s = .ok u) :
    Advances s u := by
  refine commandBody_cases hu (Advances s) ?prepare ?reset ?unprepared ?processStereo ?audioBlock ?fltSetcoef
    ?fltProcess ?fltReset ?resample ?rsReset ?dlyStep ?peakUpdate ?res0 ?didxWrite ?testctlWrite
  case prepare => exact fun _ _ h => absurd h hi
  case reset => exact fun _ => advances_clearHistory s
  case unprepared => exact fun _ _ => .refl s
  case processStereo => exact fun a ms e _ he => advances_finishBlock he a ms
  case audioBlock => exact fun _ _ _ _ => .of_same (by constructor <;> rfl)
  case fltSetcoef =>
    rintro un _ mode fs fc - rfl
    exact advances_setFilter s _ (FilterUnit.setCoef_staysLegal _ _ _ _ _)
  case fltProcess =>
    intro un r x _ hr
    have unit : s.filters[filterIx un].StaysLegal (filterStep [s.free] r x).2.toUnit :=
      .of_toUnit (FilterUnit.regs_eq_ok.1 hr) (filterStep_a _ _ _)
    exact ((advances_setFilter s _ unit).setRes0 _).tick
  case fltReset => exact fun _ _ => advances_setFilter s _ (FilterUnit.cleared_staysLegal _)
  case resample => exact fun _ o ys q _ => advances_finishResample s _ o ys q
  case rsReset => exact fun _ _ => advances_setResampler s _ ResamplerUnit.cleared_isWritten
  case dlyStep =>
    exact fun l d x y _ _ hl => (((advances_setDelayLine hl (delayStep_keeps _ _ _ _ _ _)).setRes0 _).setRes1 _).tick
  case peakUpdate => exact fun _ x _ => advances_peakUpdate s _ x
  case res0 => exact fun v _ => (Advances.refl s).setRes0 v
  case didxWrite => exact fun _ _ => .of_same (by constructor <;> rfl)
  case testctlWrite => exact fun _ _ hv => advances_testctl hv

end Advances

section SessionAndCoefficients

/-- A PREPARE that completes opens a session that holds (42 R179). -/
theorem sessionOk_of_prepare {s u : State} (hu : commandBody .prepare s = .ok u) : u.sessionOk = true := by
  obtain ⟨fs, m, hm, hfinite, hrate, hram, rfl⟩ := prepare_eq_ok hu
  have hlen := bufferLength_eq hm
  refine sessionOk_iff.2 ⟨hram, .inr ⟨?len, ⟨0, rfl, ?cursor⟩, ⟨fs, rfl, ?rate⟩, ?filters, ?resamplers⟩⟩
  case len => rw [State.prepareWith_len]; omega
  case cursor => rw [State.prepareWith_len]; omega
  case rate => simp [rateAccepted, hfinite, hrate]
  case filters => intro j; simp [preparedFilter_isWritten]
  case resamplers => intro j; simp

/-- A fault ends a session or leaves it as it was (60 R232, R238). -/
theorem sessionOk_faultEntry {s : State} (p : Port) (w : Word) (c : Cause) (hs : s.sessionOk = true) :
    (s.faultEntry p w c).sessionOk = true := by
  by_cases hc : c = .alloc
  · exact sessionOk_iff.2 ⟨by simp [hc], .inl (by simp [hc])⟩
  · simpa [sessionOk_iff, hc] using hs

theorem sessionOk_isInvariant : IsInvariant fun s => s.sessionOk = true where
  same h := (Advances.of_same h).sessionOk
  faultEntry := sessionOk_faultEntry
  peakUpdate c x := (advances_peakUpdate _ c x).sessionOk
  stereoBlock h := (advances_stereoBlock h).sessionOk
  command {i} _ _ h hs := by
    by_cases hi : i = .prepare
    · subst hi; exact sessionOk_of_prepare h
    · exact (advances_commandBody hi h).sessionOk hs
  powerOn _ := powerOn_sessionOk _

/-- Settles O54: the session's invariant is one that every part of a step keeps. -/
theorem sessionInvariantIsKept : Obligations.SessionInvariantIsKept :=
  fun _ _ hs h => sessionOk_isInvariant.step h hs

/-- TESTCTL's reserved bits hold 0 and every written coefficient is admitted (10 R37, 40 R135). -/
def State.legalBits (s : State) : Prop := s.testctlOk = true ∧ s.coefsOk = true

theorem Advances.legalBits {s t : State} (h : Advances s t) (hs : s.legalBits) : t.legalBits :=
  ⟨h.testctl hs.1, coefsOk_iff.2 fun j => (h.filters j).coef (coefsOk_iff.1 hs.2 j)⟩

/-- PREPARE gives every filter an admitted coefficient (42 R179). -/
theorem prepareWith_legalBits {s : State} (fs : F64) (n : Nat) (hs : s.legalBits) : (s.prepareWith fs n).legalBits :=
  ⟨hs.1, coefsOk_iff.2 fun j => by simpa using preparedFilter_admitted s.params.coef fs j⟩

theorem legalBits_isInvariant : IsInvariant State.legalBits where
  same h := (Advances.of_same h).legalBits
  faultEntry _ _ _ hs := hs
  peakUpdate c x := (advances_peakUpdate _ c x).legalBits
  stereoBlock h := (advances_stereoBlock h).legalBits
  command {i} _ _ h hs := by
    by_cases hi : i = .prepare
    · subst hi
      obtain ⟨fs, m, -, -, -, -, rfl⟩ := prepare_eq_ok h
      exact prepareWith_legalBits fs _ hs
    · exact (advances_commandBody hi h).legalBits hs
  powerOn _ := ⟨powerOn_testctlOk _, powerOn_coefsOk _⟩

/-- Settles O56: the two legality conditions together are kept by every part of a step. -/
theorem reservedBitsAndCoefficientsStayLegal : Obligations.ReservedBitsAndCoefficientsStayLegal :=
  fun _ _ htestctl hcoefs h => legalBits_isInvariant.step h ⟨htestctl, hcoefs⟩

end SessionAndCoefficients

section UnwrittenArgs

/-- An operand is the value of one ARG in some form (00 R23). -/
def ReadsArg {α : Type} (s : State) (k : Fin 8) (x : Except Cause α) : Prop := ∃ g : Reg64 → α, x = (s.arg k).map g

/-- An effect reads the ARGs of a list before anything else can end it: where one of them is unwritten, it ends with
UNINIT (60 R237). -/
def ReadsFirst {α : Type} (s : State) (ks : List (Fin 8)) (body : Except Cause α) : Prop :=
  ∀ k ∈ ks, (s.port s.active).args[k] = none → body = .error .uninit

section

variable {α β : Type} {s : State} {k : Fin 8} {ks js : List (Fin 8)} {x : Except Cause α} {f : α → Except Cause β}

theorem readsArg_f64 (s : State) (k : Fin 8) : ReadsArg s k (s.argF64 k) :=
  ⟨id, by unfold State.argF64; cases s.arg k <;> rfl⟩

theorem readsArg_f32 (s : State) (k : Fin 8) : ReadsArg s k (s.argF32 k) := ⟨_, rfl⟩

theorem readsArg_i32 (s : State) (k : Fin 8) : ReadsArg s k (s.argI32 k) := ⟨_, rfl⟩

theorem readsArg_addr (s : State) (k : Fin 8) : ReadsArg s k (s.argAddr k) := ⟨_, rfl⟩

theorem ReadsFirst.nil (body : Except Cause α) : ReadsFirst s [] body := fun _ h => by cases h

/-- One more operand read in front: unwritten it is UNINIT, and otherwise the rest goes on with its value. -/
theorem ReadsFirst.cons (hx : ReadsArg s k x) (hf : ∀ v, ReadsFirst s ks (f v)) : ReadsFirst s (k :: ks) (x >>= f) := by
  obtain ⟨g, rfl⟩ := hx
  intro j hj hnone
  unfold State.arg
  rcases written_cases (s.port s.active).args[k] with ⟨v, hv, hread⟩ | ⟨-, hread⟩ <;> rw [hread]
  · rcases List.mem_cons.1 hj with rfl | hj
    · rw [hnone] at hv; cases hv
    · exact hf (g v) j hj hnone
  · rfl

/-- What the first part of an effect reads, the whole reads. -/
theorem ReadsFirst.bind (hx : ReadsFirst s ks x) : ReadsFirst s ks (x >>= f) :=
  fun k hk hnone => by rw [hx k hk hnone]; rfl

theorem ReadsFirst.mono (h : ReadsFirst s ks x) (hjs : js ⊆ ks) : ReadsFirst s js x := fun k hk => h k (hjs hk)

end

variable (s : State)

theorem stereoArgs_readsFirst : ReadsFirst s [0, 1, 2, 3, 4] s.stereoArgs :=
  .cons (readsArg_addr s 0) fun _ => .cons (readsArg_addr s 1) fun _ => .cons (readsArg_addr s 2) fun _ =>
    .cons (readsArg_addr s 3) fun _ => .cons (readsArg_i32 s 4) fun _ => .nil _

theorem resampleArgs_readsFirst : ReadsFirst s [0, 1, 2, 3, 4, 5] s.resampleArgs :=
  .cons (readsArg_addr s 0) fun _ => .cons (readsArg_i32 s 1) fun _ => .cons (readsArg_addr s 2) fun _ =>
    .cons (readsArg_i32 s 3) fun _ => .cons (readsArg_f64 s 4) fun _ => .cons (readsArg_f64 s 5) fun _ => .nil _

/-- Every command reads its ARGs before every other test of its own; PROCESS_STEREO reads none while LEN = 0 (42
R181). -/
theorem commandBody_readsFirst (i : Instr) (hi : ¬ (i = .processStereo ∧ s.len = 0)) :
    ReadsFirst s i.argsRead (commandBody i s) := by
  cases i
  case reset | fltReset | rsReset | peakRead | didxRead | statusRead => exact .nil _
  case prepare => exact .cons (readsArg_f64 s 0) fun _ => .cons (readsArg_i32 s 1) fun _ => .nil _
  case processStereo =>
    have hlen : s.len ≠ 0 := fun h => hi ⟨rfl, h⟩
    rw [commandBody, processStereo, if_neg hlen]
    have reads := ReadsFirst.cons (readsArg_i32 s 5) fun ms =>
      (stereoArgs_readsFirst s).bind (f := fun a => s.stereoBlock a ms)
    exact reads.mono (by decide)
  case audioBlock => exact (stereoArgs_readsFirst s).bind
  case fltSetcoef => exact .cons (readsArg_f64 s 0) fun _ => .cons (readsArg_f64 s 1) fun _ => .nil _
  case fltProcess => exact .cons (readsArg_f32 s 0) fun _ => .nil _
  case rsDownsample => exact (resampleArgs_readsFirst s).bind
  case rsUpsample => exact (resampleArgs_readsFirst s).bind
  case dlyStep =>
    exact .cons (readsArg_f32 s 0) fun _ => .cons (readsArg_f32 s 1) fun _ => .cons (readsArg_i32 s 2) fun _ => .nil _
  case peakUpdate => exact .cons (readsArg_f32 s 0) fun _ => .nil _
  case didxWrite => exact .cons (readsArg_i32 s 0) fun _ => .nil _
  case testctlWrite => exact .cons (readsArg_f32 s 0) fun _ => .nil _

/-- Settles O15: the command's own effect ends with UNINIT, and an accepted command ends as its effect does. -/
theorem unwrittenArgTakesUninit : Obligations.UnwrittenArgTakesUninit := by
  intro i s k haccepts hresumes hk hnone hunprepared
  rw [exec_of_accepts hresumes haccepts, commandBody_readsFirst s i hunprepared k hk hnone]
  rfl

end UnwrittenArgs

section PowerOnRegisters

variable (c : Params)

theorem powerOn_filters (f : Fin 8) : (State.powerOn c).filters[f] = FilterUnit.unwritten := by
  simp [State.powerOn]

theorem powerOn_resamplers (r : Fin 4) : (State.powerOn c).resamplers[r] = ResamplerUnit.unwritten := by
  simp [State.powerOn]

@[simp] theorem powerOn_port (p : Port) : (State.powerOn c).port p = PortRegs.unwritten := by cases p <;> rfl

theorem unwritten_args (k : Fin 8) : PortRegs.unwritten.args[k] = none := by simp [PortRegs.unwritten]

/-- STATUS reads 0 at power-on: not prepared, no fault, no cause (10 R35, R54). -/
theorem powerOn_statusWord : (State.powerOn c).statusWord = 0#32 := by
  have cause : (State.powerOn c).causeCode = 0#4 := rfl
  have faulted : (State.powerOn c).faulted = false := rfl
  have prepared : (State.powerOn c).prepared = false := rfl
  rw [State.statusWord, cause, faulted, prepared]
  rfl

/-- Settles O57: register by register, R54's table read off `State.powerOn`. -/
theorem powerOnState : Obligations.PowerOnState := by
  refine ⟨rfl, rfl, rfl, fun k hk => Nat.not_lt_zero k hk, powerOn_filters _, powerOn_resamplers _, fun _ => rfl, rfl,
    rfl, powerOn_statusWord _, fun p k => ?args, fun p => ?res⟩
  case args => rw [State.reset, powerOn_port]; exact unwritten_args k
  case res => rw [State.reset, powerOn_port]; exact ⟨rfl, rfl⟩

end PowerOnRegisters

end Sys2Proof.Machine

/-! ## Memory: its canonical form, the commands that store to it, elements in byte order, the host's touches, and how a
step comes to run a decoded command (10 R40, R41, R53; 20 R70 to R87; 30 R114) -/

namespace Sys2Proof

/-- The commands with array operands (30 R109). -/
def Instr.HasArrays (i : Instr) : Prop :=
  i = .processStereo ∨ i = .audioBlock ∨ ∃ u, i = .rsDownsample u ∨ i = .rsUpsample u

end Sys2Proof

namespace Sys2Proof.Machine

section MemoryEffects

/-- Memory `n` is memory `m` with the outputs of one command stored: one array, or a left and a right one. -/
inductive OutputsStored (m : List Host.Cell) : List Host.Cell → Prop
  | array (o : ByteOrder) (base : Nat) (ys : List F32) : OutputsStored m (writeArray o m base ys)
  | stereo (o : ByteOrder) (outL outR : Nat) (ys : List (F32 × F32)) : OutputsStored m (writeStereo o m outL outR ys)

theorem OutputsStored.wf {m n : List Host.Cell} (h : OutputsStored m n) (hm : Memory.wf m = true) :
    Memory.wf n = true := by
  cases h with
  | array o base ys => exact writeArray_wf o ys hm base
  | stereo o outL outR ys => exact writeStereo_wf o ys hm outL outR

/-- What a command can do to host memory (10 R53, 20 R70): one with array operands stores its outputs, every other one
leaves it alone. -/
def MemoryEffect (i : Instr) (s t : State) : Prop := t.mem = s.mem ∨ (i.HasArrays ∧ OutputsStored s.mem t.mem)

theorem MemoryEffect.wf {i : Instr} {s t : State} (h : MemoryEffect i s t) (hs : Memory.wf s.mem = true) :
    Memory.wf t.mem = true := by
  rcases h with hsame | ⟨-, hstored⟩
  · rwa [hsame]
  · exact hstored.wf hs

variable {i : Instr} {s t u : State}

theorem stereoBlock_memoryEffect {a : StereoArrays} {ms : Int} (hi : i.HasArrays) (h : s.stereoBlock a ms = .ok t) :
    MemoryEffect i s t := by
  obtain ⟨e, -, h⟩ := bind_eq_ok h
  cases h; exact .inr ⟨hi, .stereo ..⟩

theorem commandBody_memoryEffect (hu : commandBody i s = .ok u) : MemoryEffect i s u := by
  refine commandBody_cases hu (MemoryEffect i s) ?prepare ?reset ?unprepared ?processStereo ?audioBlock ?fltSetcoef
    ?fltProcess ?fltReset ?resample ?rsReset ?dlyStep ?peakUpdate ?res0 ?didxWrite ?testctlWrite
  case processStereo => exact fun _ _ _ hi _ => .inr ⟨.inl hi, .stereo ..⟩
  case resample =>
    intro un o ys q hi
    have stored : (s.finishResample (resamplerIx un) o ys q).mem = writeArray s.params.byteOrder s.mem o ys := by simp
    exact .inr ⟨.inr (.inr ⟨un, hi⟩), stored ▸ .array ..⟩
  all_goals intros; exact .inl (by simp)

theorem audioSubStep_memoryEffect (b : Block) : MemoryEffect .audioBlock s (audioSubStep b s) := by
  unfold audioSubStep
  split
  case h_1 => exact .inl rfl
  case h_2 =>
    split
    case h_1 t ht =>
      unfold State.processBlock at ht
      split at ht
      · exact stereoBlock_memoryEffect (t := t) (.inr (.inl rfl)) ht
      · cases ht; exact .inl rfl
    case h_2 => exact .inl rfl
  case h_3 => exact .inl rfl

theorem exec_memoryEffect (h : exec i s = .next t) : MemoryEffect i s t := by
  by_cases hr : s.resumes i
  · obtain ⟨rfl, ha, hb⟩ := hr
    obtain ⟨b, hb⟩ := Option.isSome_iff_exists.1 hb
    rw [exec_of_resumes ha hb] at h
    cases h; exact audioSubStep_memoryEffect b
  · rw [exec_eq i s hr] at h
    rcases runCommand_cases i s (commandBody i s) with ⟨h', -⟩ | ⟨h', -⟩ | ⟨-, u, hu, h'⟩ | ⟨-, c, -, h'⟩ <;>
      rw [h'] at h <;> cases h
    exacts [.inl rfl, .inl rfl, commandBody_memoryEffect hu, .inl rfl]

end MemoryEffects

section CanonicalForm

/-- Both buffers of a delay line are in canonical form. -/
def DelayLine.Canonical (l : DelayLine) : Prop := cellsWf l.bufL = true ∧ cellsWf l.bufR = true

theorem delayStep_canonical {l : DelayLine} (hl : l.Canonical) (p : Site) (dr : Draws) (d : Int) (x y : F32) :
    (delayStep p dr d l x y).2.Canonical :=
  ⟨cellsSet_wf hl.1 _ _, cellsSet_wf hl.2 _ _⟩

theorem delayRun_canonical {l : DelayLine} (hl : l.Canonical) (p : Site) (draws : Nat → Draws) (d : Int) (k : Nat)
    (xs : List (F32 × F32)) : (delayRun p draws d k l xs).2.Canonical := by
  induction xs generalizing k l with
  | nil => exact hl
  | cons x xs ih => exact ih (delayStep_canonical hl _ _ _ _ _) _

/-- Both delay RAMs are in canonical form. -/
def State.DelayCanonical (s : State) : Prop := cellsWf s.bufL = true ∧ cellsWf s.bufR = true

variable {s t : State}

theorem State.canonical_iff : s.canonical = true ↔ Memory.wf s.mem = true ∧ s.DelayCanonical := by
  simp [State.canonical, State.DelayCanonical, and_assoc]

/-- The delay line a state holds is canonical where its delay RAMs are. -/
theorem State.DelayCanonical.line {l : DelayLine} (hs : s.DelayCanonical) (hl : s.delayLine = .ok l) : l.Canonical := by
  obtain ⟨-, -, hbufL, hbufR, -⟩ := delayLine_eq_ok hl
  rwa [DelayLine.Canonical, hbufL, hbufR]

theorem finishBlock_delayCanonical {e : Engine} (he : s.engine = .ok e) (a : StereoArrays) (ms : Int)
    (hs : s.DelayCanonical) : (s.finishBlock a (s.blockOutput a ms e)).DelayCanonical :=
  delayRun_canonical (hs.line (engine_eq_ok he).2) ..

theorem commandBody_delayCanonical {i : Instr} {u : State} (hs : s.DelayCanonical) (hu : commandBody i s = .ok u) :
    u.DelayCanonical := by
  refine commandBody_cases hu State.DelayCanonical ?prepare ?reset ?unprepared ?processStereo ?audioBlock ?fltSetcoef
    ?fltProcess ?fltReset ?resample ?rsReset ?dlyStep ?peakUpdate ?res0 ?didxWrite ?testctlWrite
  case prepare => exact fun _ _ _ => ⟨cellsClearBelow_wf hs.1 _, cellsClearBelow_wf hs.2 _⟩
  case reset => exact fun _ => ⟨cellsClearBelow_wf hs.1 _, cellsClearBelow_wf hs.2 _⟩
  case processStereo => exact fun a ms e _ he => finishBlock_delayCanonical he a ms hs
  case dlyStep =>
    intro l d x y _ _ hl
    simpa [State.DelayCanonical, DelayLine.Canonical] using
      delayStep_canonical (hs.line hl) [s.free] (drawsAt s.norand [s.free]) d x y
  all_goals intros; simpa [State.DelayCanonical] using hs

theorem delayCanonical_isInvariant : IsInvariant State.DelayCanonical where
  same h hs := by rwa [State.DelayCanonical, h.bufL, h.bufR]
  faultEntry _ _ _ hs := hs
  peakUpdate _ _ hs := hs
  stereoBlock h hs := by
    obtain ⟨e, he, h⟩ := bind_eq_ok h
    cases h; exact finishBlock_delayCanonical he _ _ hs
  command hu hs := commandBody_delayCanonical hs hu
  powerOn _ := ⟨rfl, rfl⟩

theorem portStep_mem_wf {p : Port} (h : portStep p s = .next t) (hs : Memory.wf s.mem = true) :
    Memory.wf t.mem = true := by
  rcases portStep_cases h with ⟨rfl, -⟩ | ⟨w, -, -, rfl⟩ | ⟨w, i, u, -, -, hu, rfl⟩
  · exact hs
  · simpa using hs
  · have retired : (u.retire p i).mem = u.mem := by unfold State.retire; split <;> simp
    rw [retired]
    exact (exec_memoryEffect hu).wf hs

/-- Every step keeps host memory canonical: a port's command, or the host's own write of a byte (20 R78). -/
theorem step_mem_wf (h : step s = .next t) (hs : Memory.wf s.mem = true) : Memory.wf t.mem = true := by
  rcases step_cases h with ⟨p, s₀, hp, -, hs₀⟩ | ⟨p, k, v, -, -, rfl⟩ | ⟨p, w, -, -, rfl⟩ | rfl | ⟨a, b, rfl⟩ | ⟨-, rfl⟩
  · have same : s₀.mem = s.mem := by rcases hs₀ with rfl | rfl | rfl <;> rfl
    exact portStep_mem_wf hp (same ▸ hs)
  · simpa using hs
  · simpa using hs
  · exact hs
  · exact cellsSet_wf hs a.toNat b
  · exact hs

/-- Settles O53: host memory by the effects of the commands and the host's writes, the delay RAMs as an invariant. -/
theorem memoryStaysCanonical : Obligations.MemoryStaysCanonical := by
  intro s t hs h
  obtain ⟨hmem, hdelay⟩ := State.canonical_iff.1 hs
  exact State.canonical_iff.2 ⟨step_mem_wf h hmem, delayCanonical_isInvariant.step h hdelay⟩

end CanonicalForm

section SessionRegisters

/-- A test or an effect does not end in ALLOC, the one cause that ends the session (60 R232). -/
def NoAlloc {α : Type} (x : Except Cause α) : Prop := x ≠ .error .alloc

namespace NoAlloc

variable {α β : Type} {s : State}

theorem ok (a : α) : NoAlloc (.ok a) := nofun

theorem bind {x : Except Cause α} {f : α → Except Cause β} (hx : NoAlloc x) (hf : ∀ a, NoAlloc (f a)) :
    NoAlloc (x >>= f) := by
  cases x with
  | error c => intro h; cases h; exact hx rfl
  | ok a => exact hf a

theorem ite {c : Prop} [Decidable c] {x y : Except Cause α} (hx : NoAlloc x) (hy : NoAlloc y) :
    NoAlloc (if c then x else y) := by
  split
  exacts [hx, hy]

theorem memory : NoAlloc (.error .memory : Except Cause α) := nofun

theorem precondition : NoAlloc (.error .precondition : Except Cause α) := nofun

theorem uninit : NoAlloc (.error .uninit : Except Cause α) := nofun

theorem written (o : Option α) : NoAlloc (written o) := by
  rcases written_cases o with ⟨v, -, h⟩ | ⟨-, h⟩ <;> rw [h]
  exacts [ok v, uninit]

theorem arg {k : Fin 8} {x : Except Cause α} (h : ReadsArg s k x) : NoAlloc x := by
  obtain ⟨g, rfl⟩ := h
  rcases written_cases (s.port s.active).args[k] with ⟨v, -, h⟩ | ⟨-, h⟩ <;> rw [State.arg, h]
  exacts [ok (g v), uninit]

theorem memCheck (base n : Nat) : NoAlloc (memCheck base n) := ite memory (ite memory (ok _))

theorem filterRegs (f : FilterUnit) : NoAlloc f.regs :=
  bind (written _) fun _ => bind (written _) fun _ => bind (written _) fun _ => bind (written _) fun _ => ok _

theorem resamplerRegs (r : ResamplerUnit) : NoAlloc r.regs :=
  bind (written _) fun _ => bind (written _) fun _ => ok _

theorem stereoCheck (inL inR outL outR : Nat) (count : Int) : NoAlloc (stereoCheck inL inR outL outR count) :=
  bind (memCheck _ _) fun _ => bind (memCheck _ _) fun _ => bind (memCheck _ _) fun _ => bind (memCheck _ _) fun _ =>
    ite memory (ite precondition (ok _))

variable (s)

theorem stereoArgs : NoAlloc s.stereoArgs :=
  bind (arg (readsArg_addr s 0)) fun _ => bind (arg (readsArg_addr s 1)) fun _ => bind (arg (readsArg_addr s 2)) fun _ =>
    bind (arg (readsArg_addr s 3)) fun _ => bind (arg (readsArg_i32 s 4)) fun _ => stereoCheck _ _ _ _ _

theorem resampleArgs : NoAlloc s.resampleArgs :=
  bind (arg (readsArg_addr s 0)) fun _ => bind (arg (readsArg_i32 s 1)) fun _ => bind (arg (readsArg_addr s 2)) fun _ =>
    bind (arg (readsArg_i32 s 3)) fun _ => bind (arg (readsArg_f64 s 4)) fun _ => bind (arg (readsArg_f64 s 5)) fun _ =>
      bind (memCheck _ _) fun _ => bind (memCheck _ _) fun _ =>
        ite memory (ite precondition (ite precondition (ite precondition (ok _))))

theorem delayLine : NoAlloc s.delayLine :=
  bind (filterRegs _) fun _ => bind (filterRegs _) fun _ => bind (filterRegs _) fun _ => bind (filterRegs _) fun _ =>
    bind (written _) fun _ => ok _

theorem engine : NoAlloc s.engine :=
  bind (written _) fun _ => bind (filterRegs _) fun _ => bind (filterRegs _) fun _ => bind (filterRegs _) fun _ =>
    bind (filterRegs _) fun _ => bind (resamplerRegs _) fun _ => bind (resamplerRegs _) fun _ =>
      bind (resamplerRegs _) fun _ => bind (resamplerRegs _) fun _ => bind (delayLine s) fun _ => ok _

theorem stereoBlock (a : StereoArrays) (ms : Int) : NoAlloc (s.stereoBlock a ms) := bind (engine s) fun _ => ok _

/-- Only PREPARE raises ALLOC (42 R179, 60 R231). -/
theorem commandBody {i : Instr} (hi : i ≠ .prepare) : NoAlloc (commandBody i s) := by
  cases i
  case prepare => exact absurd rfl hi
  case reset | fltReset | rsReset | peakRead | statusRead => exact ok _
  case processStereo =>
    exact ite (ok _) (bind (arg (readsArg_i32 s 5)) fun _ => bind (stereoArgs s) fun _ => stereoBlock s _ _)
  case audioBlock => exact bind (stereoArgs s) fun _ => bind (written _) fun _ => ok _
  case fltSetcoef =>
    exact bind (arg (readsArg_f64 s 0)) fun _ => bind (arg (readsArg_f64 s 1)) fun _ => ite precondition (ok _)
  case fltProcess => exact bind (arg (readsArg_f32 s 0)) fun _ => bind (filterRegs _) fun _ => ok _
  case rsDownsample => exact bind (resampleArgs s) fun _ => bind (resamplerRegs _) fun _ => ok _
  case rsUpsample => exact bind (resampleArgs s) fun _ => bind (resamplerRegs _) fun _ => ok _
  case dlyStep =>
    exact bind (arg (readsArg_f32 s 0)) fun _ => bind (arg (readsArg_f32 s 1)) fun _ =>
      bind (arg (readsArg_i32 s 2)) fun _ => ite uninit (bind (delayLine s) fun _ => ok _)
  case peakUpdate => exact bind (arg (readsArg_f32 s 0)) fun _ => ok _
  case didxWrite =>
    refine bind (arg (readsArg_i32 s 0)) fun v => ?_
    cases delayIndexOf v
    exacts [precondition, ok _]
  case didxRead => exact bind (written _) fun _ => ok _
  case testctlWrite => exact bind (arg (readsArg_f32 s 0)) fun _ => ite precondition (ok _)

end NoAlloc

/-- The two states are of one session: LEN and HOST_RATE are the same (10 R40, R41). -/
def SameSession (s t : State) : Prop := t.len = s.len ∧ t.hostRate = s.hostRate

variable {s t : State}

theorem Advances.sameSession (h : Advances s t) : SameSession s t := ⟨h.len, h.hostRate⟩

/-- Any fault but ALLOC leaves the session as it is (60 R232, R238). -/
theorem faultEntry_sameSession (p : Port) (w : Word) {c : Cause} (hc : c ≠ .alloc) : SameSession s (s.faultEntry p w c) :=
  ⟨by simp [hc], rfl⟩

theorem audioSubStep_sameSession (b : Block) (s : State) : SameSession s (audioSubStep b s) := by
  unfold audioSubStep
  split
  case h_1 => exact ⟨rfl, rfl⟩
  case h_2 =>
    unfold State.processBlock
    split
    case h_1 t ht =>
      split at ht
      · exact (advances_stereoBlock ht).sameSession
      · cases ht; exact ⟨rfl, rfl⟩
    case h_2 c hc =>
      split at hc
      · exact faultEntry_sameSession s.active (encode .audioBlock) fun halloc => NoAlloc.stereoBlock s _ _ (halloc ▸ hc)
      · cases hc
  case h_3 => exact ⟨rfl, rfl⟩

theorem exec_sameSession {i : Instr} (hi : i ≠ .prepare) (h : exec i s = .next t) : SameSession s t := by
  by_cases hr : s.resumes i
  · obtain ⟨rfl, ha, hb⟩ := hr
    obtain ⟨b, hb⟩ := Option.isSome_iff_exists.1 hb
    rw [exec_of_resumes ha hb] at h
    cases h; exact audioSubStep_sameSession b s
  · rw [exec_eq i s hr] at h
    rcases runCommand_cases i s (commandBody i s) with ⟨h', -⟩ | ⟨h', -⟩ | ⟨-, u, hu, h'⟩ | ⟨-, c, hc, h'⟩ <;>
      rw [h'] at h <;> cases h
    · exact faultEntry_sameSession _ _ nofun
    · exact ⟨rfl, rfl⟩
    · exact (advances_commandBody hi hu).sameSession
    · exact faultEntry_sameSession _ _ fun halloc => NoAlloc.commandBody s hi (halloc ▸ hc)

/-- Settles O52: a command without array operands stores nothing, and only PREPARE opens a session or raises ALLOC. -/
theorem onlyTheirCommandsWriteMemoryAndSession : Obligations.OnlyTheirCommandsWriteMemoryAndSession := by
  refine ⟨fun i s t hstereo hblock hdown hup h => ?memory, fun i s t hi h => exec_sameSession hi h⟩
  have noArrays : ¬ i.HasArrays := by
    rintro (hi | hi | ⟨u, hi | hi⟩)
    exacts [hstereo hi, hblock hi, hdown u hi, hup u hi]
  exact (exec_memoryEffect h).resolve_right fun stored => noArrays stored.1

end SessionRegisters

section Elements

variable {m : List Host.Cell}

/-- The bytes of an element stand where `MemWrite` put them (20 R73). -/
theorem cellsGet_memWrite (o : ByteOrder) (hm : Memory.wf m = true) (addr : Nat) (v : F32) {j : Nat} (hj : j < 4) :
    cellsGet (memWrite o m addr v) (addr + j) = elementByte o v j := by
  have wf0 := cellsSet_wf hm addr (elementByte o v 0)
  have wf1 := cellsSet_wf wf0 (addr + 1) (elementByte o v 1)
  have wf2 := cellsSet_wf wf1 (addr + 2) (elementByte o v 2)
  unfold memWrite
  obtain rfl | rfl | rfl | rfl : j = 0 ∨ j = 1 ∨ j = 2 ∨ j = 3 := by omega
  · rw [cellsGet_cellsSet_other _ _ (by omega), cellsGet_cellsSet_other _ _ (by omega),
      cellsGet_cellsSet_other _ _ (by omega)]
    exact cellsGet_cellsSet_same hm addr _
  · rw [cellsGet_cellsSet_other _ _ (by omega), cellsGet_cellsSet_other _ _ (by omega), cellsGet_cellsSet_same wf0]
  · rw [cellsGet_cellsSet_other _ _ (by omega), cellsGet_cellsSet_same wf1]
  · exact cellsGet_cellsSet_same wf2 (addr + 3) _

/-- A value is its four bytes, the most significant first. -/
theorem bytes_append (v : F32) :
    v.extractLsb' 24 8 ++ v.extractLsb' 16 8 ++ v.extractLsb' 8 8 ++ v.extractLsb' 0 8 = v := by
  rw [BitVec.extractLsb'_append_extractLsb'_eq_extractLsb' (rfl : 24 = 16 + 8),
    BitVec.extractLsb'_append_extractLsb'_eq_extractLsb' (rfl : 16 = 8 + 8),
    BitVec.extractLsb'_append_extractLsb'_eq_extractLsb' (rfl : 8 = 0 + 8)]
  exact BitVec.extractLsb'_eq_self

/-- `MemRead` after `MemWrite` gives the value, in either byte order (20 R73). -/
theorem memRead_memWrite (o : ByteOrder) (hm : Memory.wf m = true) (addr : Nat) (v : F32) :
    memRead o (memWrite o m addr v) addr = v := by
  have b0 : cellsGet (memWrite o m addr v) addr = elementByte o v 0 := cellsGet_memWrite o hm addr v (j := 0) (by omega)
  have b1 := cellsGet_memWrite o hm addr v (j := 1) (by omega)
  have b2 := cellsGet_memWrite o hm addr v (j := 2) (by omega)
  have b3 := cellsGet_memWrite o hm addr v (j := 3) (by omega)
  unfold memRead
  simp only [b0, b1, b2, b3]
  cases o <;> exact bytes_append v

/-- Settles O60: each byte of the element by the order it is written in, and the bytes put together again. -/
theorem elementsReadBackInByteOrder : Obligations.ElementsReadBackInByteOrder := fun o m addr v hm =>
  ⟨memRead_memWrite o hm addr v, fun _ hj => cellsGet_memWrite .little hm addr v hj,
   fun _ hj => cellsGet_memWrite .big hm addr v hj, fun _ hb => memWrite_other o m v hb⟩

end Elements

end Sys2Proof.Machine

namespace Sys2Proof

section Decoding

/-- An encoded command's fields name its row, with its UNIT and MODE (30 R105). -/
@[simp] theorem rowOf_fields (i : Instr) : rowOf i.opc i.unit i.mode = some i := by
  cases i
  case fltSetcoef u mode => cases mode <;> rfl
  all_goals rfl

/-- A row stands at its own opcode (30 R105). -/
theorem opc_of_rowOf {opc : BitVec 8} {u mode : BitVec 4} {i : Instr} (h : rowOf opc u mode = some i) : opc = i.opc := by
  refine BitVec.eq_of_toNat_eq ?_
  unfold rowOf at h
  split at h <;> cases h <;> assumption

/-- The MODE of a command is one its row admits (30 R104). -/
theorem mode_lt_modeCount (i : Instr) : i.mode.toNat < i.modeCount := by
  cases i
  case fltSetcoef u mode => cases mode <;> simp [Instr.mode, Instr.modeCount]
  all_goals simp [Instr.mode, Instr.modeCount]

/-- Decoding undoes encoding, for every well-formed command (30 R100, R105). -/
theorem decode_encode {i : Instr} (hi : i.wf = true) : decode (encode i) = .ok i := by
  obtain ⟨hopc, hunit, hmode, hrsvd⟩ := Laws.Fields.holds i
  have unit_ok : ¬ i.unitCount ≤ i.unit.toNat := Nat.not_le.2 (of_decide_eq_true hi)
  have mode_ok : ¬ i.modeCount ≤ i.mode.toNat := Nat.not_le.2 (mode_lt_modeCount i)
  simp [decode, hopc, hunit, hmode, hrsvd, unit_ok, mode_ok]

/-- P0 accepts every well-formed command (30 R112). -/
theorem decodeOn_p0_encode {i : Instr} (hi : i.wf = true) : decodeOn .p0 (encode i) = .ok i := by
  simp [decodeOn, decode_encode hi, Instr.acceptedOn]

/-- What decodes has its row's opcode, RSVD = 0, and UNIT and MODE in the row's range (30 R111). -/
theorem fields_of_decode {w : Word} {i : Instr} (h : decode w = .ok i) :
    opcField w = i.opc ∧ rsvdField w = 0#16 ∧ (unitField w).toNat < i.unitCount ∧ (modeField w).toNat < i.modeCount := by
  unfold decode at h
  split at h
  · cases h
  · next j hrow =>
    split_ifs at h with hrsvd hunit hmode
    cases h
    exact ⟨opc_of_rowOf hrow, not_not.1 hrsvd, Nat.not_le.1 hunit, Nat.not_le.1 hmode⟩

namespace Machine

/-- Every command's row is one of the legal ranges (30 R105). -/
theorem row_mem_legalRanges (i : Instr) : (i.opc.toNat, i.unitCount, i.modeCount, i.onControlPort) ∈ legalRanges := by
  cases i <;> simp [legalRanges, Instr.opc, Instr.unitCount, Instr.modeCount, Instr.onControlPort]

/-- What decodes on a port is a word the port may receive (30 R111, R112). -/
theorem wordLegal_of_decodeOn {p : Port} {w : Word} {i : Instr} (h : decodeOn p w = .ok i) : wordLegal p w = true := by
  unfold decodeOn at h
  split at h
  · cases h
  · next j hj =>
    split_ifs at h with haccepted
    cases h
    obtain ⟨hopc, hrsvd, hunit, hmode⟩ := fields_of_decode hj
    have hport : (p == .p0 || i.onControlPort) = true := by
      cases p
      case p0 => rfl
      case p1 => exact haccepted
    refine List.any_eq_true.2 ⟨_, row_mem_legalRanges i, ?_⟩
    simp [hopc, hrsvd, hunit, hmode, hport]

end Machine

end Decoding

end Sys2Proof

namespace Sys2Proof.Machine

section Turns

variable {s : State} {p : Port} {w : Word} {rest : List HostEvent}

/-- The turn the schedule gives a port is a step of the port (20 R84). -/
theorem step_of_run (h : s.inputs = .run p :: rest) : step s = portStep p { s with inputs := rest } := by
  simp [step, machineStep, h, hostStep]

/-- While the host's list is empty, the one busy port steps (20 R84). -/
theorem step_of_only_busy (h : s.inputs = []) (hp : (s.port p).cmd = some w) (hq : ∀ q, q ≠ p → (s.port q).cmd = none) :
    step s = portStep p s := by
  cases p
  case p0 => simp [step, machineStep, h, freeRun, State.busy, hp, hq .p1 (by decide)]
  case p1 => simp [step, machineStep, h, freeRun, State.busy, hp, hq .p0 (by decide)]

/-- While the host's list is empty and both ports are busy, a free value says which one steps (20 R84). -/
theorem step_of_both_busy {v : Word} (h : s.inputs = []) (h0 : s.p0.cmd = some w) (h1 : s.p1.cmd = some v) :
    step s = portStep (if Config.controlFirst [s.free] = true then .p1 else .p0) s.tick := by
  simp [step, machineStep, h, freeRun, State.busy, State.port, h0, h1]

/-- A port without a command does nothing (20 R84). -/
theorem portStep_of_no_command (h : (s.port p).cmd = none) : portStep p s = .next s := by
  simp [portStep, h]

/-- A word that does not decode takes ILLEGAL and leaves CMD (60 R233). -/
theorem portStep_of_illegal {e : Illegal} (hw : (s.port p).cmd = some w) (he : decodeOn p w = .error e) :
    portStep p s = .next ((s.faultEntry p w .illegal).dropCommand p) := by
  simp only [portStep, hw, he]

/-- A word that decodes is carried out and retired (30 R114, 44 R211). -/
theorem portStep_of_decode {i : Instr} {t : State} (hw : (s.port p).cmd = some w) (hi : decodeOn p w = .ok i)
    (ht : exec i { s with active := p } = .next t) : portStep p s = .next (t.retire p i) := by
  simp only [portStep, hw, hi, ht]

/-- Settles O7: whose turn it is, then what the port does with the word in its CMD. -/
theorem stepRunsDecodedCommand : Obligations.StepRunsDecodedCommand := by
  refine ⟨fun s p w rest hturn hw => ?turn, fun s p rest h hnone => ?noCommand, fun s w v h h0 h1 => ?bothBusy,
    fun s h h0 h1 => ?idle⟩
  case turn =>
    have hstep : step s = portStep p { s with inputs := rest } := by
      rcases hturn with h | ⟨h, rfl, hothers⟩
      · exact step_of_run h
      · rw [step_of_only_busy h hw hothers, ← h]
    have hw' : (({ s with inputs := rest } : State).port p).cmd = some w := by cases p <;> exact hw
    refine ⟨fun i hi => ?_, fun e he => ?_⟩
    · obtain ⟨t, ht⟩ := exec_answers_next i { s with inputs := rest, active := p }
      rw [hstep, portStep_of_decode hw' hi ht, ht]
      rfl
    · rw [hstep, portStep_of_illegal hw' he]
      cases p <;> rfl
  case noCommand =>
    rw [step_of_run h, portStep_of_no_command]
    cases p <;> exact hnone
  case bothBusy =>
    rw [step_of_both_busy h h0 h1, step_of_run rfl, ← h]
    rfl
  case idle =>
    simp [step, machineStep, h, freeRun, State.busy, State.port, h0, portStep_of_no_command, h1]

end Turns

section HostTouch

variable {s : State} {i : Instr}

/-- What an effect that succeeds has read was written. -/
theorem ReadsFirst.written {α : Type} {ks : List (Fin 8)} {x : Except Cause α} {v : α} (h : ReadsFirst s ks x)
    (hx : x = .ok v) : ∀ k ∈ ks, (s.port s.active).args[k] ≠ none := by
  intro k hk hnone
  rw [h k hk hnone] at hx
  cases hx

/-- What a command has passed that runs on arrays and carries no block on: no refusal, a session where it needs one, its
ARGs written and good, and its resampler unit written (20 R87, log entry 11). -/
structure RunsOnArrays (s : State) (i : Instr) : Prop where
  notRefused : s.refuses i = false
  hasArrays : i.HasArrays
  prepared : i = .processStereo → s.len ≠ 0
  argsWritten : ∀ k ∈ i.argsRead, (s.port s.active).args[k] ≠ none
  stereoGood : i = .processStereo ∨ i = .audioBlock → ∃ a, s.stereoArgs = .ok a
  resampleGood : ∀ u, i = .rsDownsample u ∨ i = .rsUpsample u →
    (∃ a, s.resampleArgs = .ok a) ∧ s.resamplers[resamplerIx u].isWritten = true

variable {r : List (Nat × Nat) × List (Nat × Nat)}

theorem usedArrays_processStereo_cases (h : s.usedArrays .processStereo = .ok r) :
    r = ([], []) ∨ RunsOnArrays s .processStereo := by
  unfold State.usedArrays at h
  dsimp only at h
  split at h
  · cases h; exact .inl rfl
  next hruns =>
    obtain ⟨notRefused, hlen⟩ : s.refuses .processStereo = false ∧ s.len ≠ 0 := by simpa using hruns
    obtain ⟨ms, hms, h⟩ := bind_eq_ok h
    obtain ⟨a, ha, -⟩ := bind_eq_ok h
    have reads : ReadsFirst s [5, 0, 1, 2, 3, 4] (s.argI32 5 >>= fun _ => s.stereoArgs) :=
      .cons (readsArg_i32 s 5) fun _ => stereoArgs_readsFirst s
    refine .inr ⟨notRefused, .inl rfl, fun _ => hlen, ?_, fun _ => ⟨a, ha⟩, by simp⟩
    exact (reads.mono (by decide)).written (v := a) (by rw [hms]; exact ha)

theorem usedArrays_audioBlock_cases (hb : s.block = none) (h : s.usedArrays .audioBlock = .ok r) :
    r = ([], []) ∨ RunsOnArrays s .audioBlock := by
  unfold State.usedArrays at h
  rw [hb] at h
  dsimp only at h
  split at h
  · cases h; exact .inl rfl
  next hruns =>
    obtain ⟨a, ha, -⟩ := bind_eq_ok h
    exact .inr ⟨by simpa using hruns, .inr (.inl rfl), by simp, (stereoArgs_readsFirst s).written ha, fun _ => ⟨a, ha⟩,
      by simp⟩

theorem usedArrays_resampler_cases {u : BitVec 4} (hi : i = .rsDownsample u ∨ i = .rsUpsample u)
    (h : s.usedArrays i = .ok r) : r = ([], []) ∨ RunsOnArrays s i := by
  have used : s.usedArrays i = if s.refuses i then .ok ([], []) else
      s.resampleArgs >>= fun a => s.resamplers[resamplerIx u].regs >>= fun _ => .ok a.ranges := by
    rcases hi with rfl | rfl <;> rfl
  have argsRead : i.argsRead = [0, 1, 2, 3, 4, 5] := by rcases hi with rfl | rfl <;> rfl
  rw [used] at h
  split at h
  · cases h; exact .inl rfl
  next hruns =>
    obtain ⟨a, ha, h⟩ := bind_eq_ok h
    obtain ⟨q, hq, -⟩ := bind_eq_ok h
    have unit_written := (ResamplerUnit.regs_ok_iff_isWritten _).1 ⟨q, hq⟩
    refine .inr ⟨by simpa using hruns, .inr (.inr ⟨u, hi⟩), ?_, ?_, ?_, fun u' hi' => ⟨⟨a, ha⟩, ?_⟩⟩
    · rcases hi with rfl | rfl <;> simp
    · rw [argsRead]; exact (resampleArgs_readsFirst s).written ha
    · rcases hi with rfl | rfl <;> simp
    · obtain rfl : u = u' := by rcases hi with rfl | rfl <;> simpa using hi'
      exact unit_written

/-- A command that carries no block on uses no arrays, or has passed every test that keeps it from them. -/
theorem usedArrays_cases (hb : ¬ (i = .audioBlock ∧ s.block.isSome = true)) (h : s.usedArrays i = .ok r) :
    r = ([], []) ∨ RunsOnArrays s i := by
  cases i
  case processStereo => exact usedArrays_processStereo_cases h
  case audioBlock => exact usedArrays_audioBlock_cases (by simpa using hb) h
  case rsDownsample u => exact usedArrays_resampler_cases (.inl rfl) h
  case rsUpsample u => exact usedArrays_resampler_cases (.inr rfl) h
  all_goals cases h; exact .inl rfl

variable {rest : List HostEvent} {adr : BitVec 64} {v : Byte} {ins outs : List (Nat × Nat)}

/-- A host write stops the run on a byte of an array in use and lands on any other (20 R87). -/
theorem step_writeMem (hr : s.commandArrays .p0 = (ins, outs)) (h : s.inputs = .writeMem adr v :: rest) :
    step s = if (ins ++ outs).any fun r => inArray r.1 r.2 adr.toNat then .fault .hostTouchedBusyArray
      else .next { s with inputs := rest, mem := cellsSet s.mem adr.toNat v } := by
  have hr' : ({ s with inputs := rest } : State).commandArrays .p0 = (ins, outs) := hr
  simp only [step, machineStep, h, hostStep, State.inputBusy, State.outputBusy, hr', List.any_append]

/-- A host read stops the run on a byte of an output array in use and changes nothing on any other (20 R87). -/
theorem step_readMem (hr : s.commandArrays .p0 = (ins, outs)) (h : s.inputs = .readMem adr :: rest) :
    step s = if outs.any fun r => inArray r.1 r.2 adr.toNat then .fault .hostTouchedBusyArray
      else .next { s with inputs := rest } := by
  have hr' : ({ s with inputs := rest } : State).commandArrays .p0 = (ins, outs) := hr
  simp only [step, machineStep, h, hostStep, State.outputBusy, hr']

/-- Where no array is in use every host write lands and every host read changes nothing. -/
theorem step_touch_of_no_arrays (hr : s.commandArrays .p0 = ([], [])) :
    (s.inputs = .writeMem adr v :: rest → step s = .next { s with inputs := rest, mem := cellsSet s.mem adr.toNat v }) ∧
    (s.inputs = .readMem adr :: rest → step s = .next { s with inputs := rest }) :=
  ⟨fun h => by rw [step_writeMem hr h]; rfl, fun h => by rw [step_readMem hr h]; rfl⟩

/-- A CMD register of P0 that is empty or holds an illegal word puts no array in use. -/
theorem commandArrays_of_no_legal_command
    (h : s.p0.cmd = none ∨ ∃ w, s.p0.cmd = some w ∧ wordLegal .p0 w = false) : s.commandArrays .p0 = ([], []) := by
  rcases h with hnone | ⟨w, hw, hillegal⟩
  · simp [State.commandArrays, State.port, hnone]
  · cases hd : decodeOn .p0 w with
    | error e => simp [State.commandArrays, State.port, hw, hd]
    | ok i => rw [wordLegal_of_decodeOn hd] at hillegal; cases hillegal

/-- A command that is kept from arrays puts none in use. -/
theorem commandArrays_of_not_runsOnArrays (hi : i.wf = true) (hcmd : s.p0.cmd = some (encode i))
    (hb : ¬ (i = .audioBlock ∧ s.block.isSome = true)) (h : ¬ RunsOnArrays { s with active := .p0 } i) :
    s.commandArrays .p0 = ([], []) := by
  have hd := decodeOn_p0_encode hi
  cases hused : ({ s with active := .p0 } : State).usedArrays i with
  | error c => exact commandArrays_of_error (p := .p0) hcmd hd hused
  | ok r =>
    rw [commandArrays_of_ok (p := .p0) hcmd hd hused]
    exact (usedArrays_cases (s := { s with active := .p0 }) hb hused).resolve_right h

/-- A dead session refuses every command of P0 that has arrays (60 R240). -/
theorem fault_eq_none_of_runsOnArrays (h : RunsOnArrays { s with active := .p0 } i) : s.fault = none := by
  obtain ⟨notRefused, hasArrays, -⟩ := h
  have notServed : i.servesDeadSession = false := by rcases hasArrays with rfl | rfl | ⟨u, rfl | rfl⟩ <;> rfl
  simpa [State.refuses, State.faulted, notServed] using notRefused

/-- Settles O9: the arrays the command in CMD of P0 has in use, read off its kind, decide what a touch does. -/
theorem hostTouchOfRunningArraysStops : Obligations.HostTouchOfRunningArraysStops := by
  refine ⟨fun s i adr v rest hi hcmd => ⟨fun ins outs hruns => ?running, fun hb hidle => ?idle⟩,
    fun s adr v rest h => step_touch_of_no_arrays (commandArrays_of_no_legal_command h),
    fun m adr v hm => ⟨cellsGet_cellsSet_same hm _ _, fun b hb => cellsGet_cellsSet_other m v hb⟩⟩
  case running =>
    have used : ({ s with active := .p0 } : State).usedArrays i = .ok (ins, outs) := by
      rcases hruns with ⟨a, ms, rfl, hf, hlen, ha, hms, rfl, rfl⟩ | ⟨a, rfl, hf, hb, ha, rfl, rfl⟩ |
        ⟨b, rfl, hb, rfl, rfl⟩ | ⟨u, a, x, y, hu, hf, ha, hw, rfl, rfl⟩
      · exact usedArrays_processStereo hf hlen ha hms
      · exact usedArrays_audioBlock hf hb ha
      · exact usedArrays_block hb
      · exact usedArrays_resampler hu hf ha hw
    have inUse : s.commandArrays .p0 = (ins, outs) := commandArrays_of_ok (p := .p0) hcmd (decodeOn_p0_encode hi) used
    exact ⟨step_writeMem inUse, step_readMem inUse⟩
  case idle =>
    refine step_touch_of_no_arrays (commandArrays_of_not_runsOnArrays hi hcmd hb fun hruns => ?_)
    rcases hidle with hfault | ⟨hps, hlen⟩ | ⟨k, hk, hnone⟩ | ⟨hstereo, c, hc⟩ | ⟨u, hu, hbad⟩ | ⟨hps, hab, hrs⟩
    · exact hfault (fault_eq_none_of_runsOnArrays hruns)
    · exact hruns.prepared hps hlen
    · exact hruns.argsWritten k hk hnone
    · obtain ⟨a, ha⟩ := hruns.stereoGood hstereo
      rw [hc] at ha; cases ha
    · obtain ⟨⟨a, ha⟩, hwritten⟩ := hruns.resampleGood u hu
      rcases hbad with ⟨c, hc⟩ | hunwritten
      · rw [hc] at ha; cases ha
      · exact Bool.false_ne_true (hunwritten.symm.trans hwritten)
    · rcases hruns.hasArrays with h | h | ⟨u, h | h⟩
      exacts [hps h, hab h, (hrs u).1 h, (hrs u).2 h]

end HostTouch

end Sys2Proof.Machine

/-! ## Encoding: the commands and their words are one to one, the rows of the opcode table as the decoder reads them,
and what the control port accepts (30 R100 to R105, R112, R118) -/

namespace Sys2Proof

section WordFields

variable {w : Word} {i : Instr} {opc : BitVec 8} {u mode : BitVec 4}

/-- A word is its four fields, OPC first (30 R100). -/
theorem fields_concat (w : Word) : opcField w ++ unitField w ++ modeField w ++ rsvdField w = w := by
  unfold opcField unitField modeField rsvdField
  rw [BitVec.extractLsb'_append_extractLsb'_eq_extractLsb' (rfl : 24 = 20 + 4),
    BitVec.extractLsb'_append_extractLsb'_eq_extractLsb' (rfl : 20 = 16 + 4),
    BitVec.extractLsb'_append_extractLsb'_eq_extractLsb' (rfl : 16 = 0 + 16)]
  exact BitVec.extractLsb'_eq_self

/-- Words are equal exactly when their fields are (30 R100). -/
theorem word_eq_iff_fields {v w : Word} :
    v = w ↔ opcField v = opcField w ∧ unitField v = unitField w ∧ modeField v = modeField w ∧
      rsvdField v = rsvdField w := by
  refine ⟨fun h => by simp [h], fun ⟨hopc, hunit, hmode, hrsvd⟩ => ?_⟩
  rw [← fields_concat v, hopc, hunit, hmode, hrsvd, fields_concat]

/-- A row's command has the word's UNIT, or its row admits the value 0 alone (30 R103). -/
theorem unit_of_rowOf (h : rowOf opc u mode = some i) : i.unit = u ∨ i.unitCount = 1 ∧ i.unit = 0 := by
  unfold rowOf at h
  split at h <;> cases h <;> simp [Instr.unit, Instr.unitCount]

/-- A row's command is FLT_SETCOEF with the type MODE selects, or its row admits the value 0 alone (30 R104). -/
theorem mode_of_rowOf (h : rowOf opc u mode = some i) :
    i = .fltSetcoef u (filterTypeOf mode) ∨ i.modeCount = 1 ∧ i.mode = 0 := by
  unfold rowOf at h
  split at h <;> cases h <;> simp [Instr.mode, Instr.modeCount]

/-- A legal MODE of FLT_SETCOEF is the MODE of the command it selects (30 R104). -/
theorem mode_fltSetcoef (u : BitVec 4) (hmode : mode.toNat < 2) :
    (Instr.fltSetcoef u (filterTypeOf mode)).mode = mode := by
  obtain rfl | rfl : mode = 0#4 ∨ mode = 1#4 := by bv_omega
  · rfl
  · rfl

/-- What decodes is the command of the row the word's OPC names (30 R105). -/
theorem rowOf_of_decode (h : decode w = .ok i) : rowOf (opcField w) (unitField w) (modeField w) = some i := by
  unfold decode at h
  split at h
  · cases h
  · next hrow =>
    split_ifs at h
    cases h
    exact hrow

/-- A word whose OPC names a row decodes to it when RSVD is 0 and UNIT and MODE are in the row's range (30 R111). -/
theorem decode_of_rowOf (hrow : rowOf (opcField w) (unitField w) (modeField w) = some i) (hrsvd : rsvdField w = 0#16)
    (hunit : (unitField w).toNat < i.unitCount) (hmode : (modeField w).toNat < i.modeCount) : decode w = .ok i := by
  simp [decode, hrow, hrsvd, Nat.not_le.2 hunit, Nat.not_le.2 hmode]

/-- What decodes has the word's UNIT and MODE (30 R103, R104). -/
theorem unit_mode_of_decode (h : decode w = .ok i) : i.unit = unitField w ∧ i.mode = modeField w := by
  have hrow := rowOf_of_decode h
  obtain ⟨-, -, hunit, hmode⟩ := fields_of_decode h
  constructor
  · rcases unit_of_rowOf hrow with heq | ⟨hcount, hzero⟩
    · exact heq
    · bv_omega
  · rcases mode_of_rowOf hrow with rfl | ⟨hcount, hzero⟩
    · exact mode_fltSetcoef _ hmode
    · bv_omega

theorem wf_of_decode (h : decode w = .ok i) : i.wf = true := by
  obtain ⟨-, -, hunit, -⟩ := fields_of_decode h
  rw [← (unit_mode_of_decode h).1] at hunit
  exact decide_eq_true hunit

theorem encode_of_decode (h : decode w = .ok i) : encode i = w := by
  obtain ⟨hopc, hrsvd, -, -⟩ := fields_of_decode h
  obtain ⟨hunit, hmode⟩ := unit_mode_of_decode h
  rw [encode, ← hopc, hunit, hmode, ← hrsvd, fields_concat]

/-- Settles O2: the encoder puts each field where the decoder reads it, and each is in the row's range. -/
theorem decodeOfEncode : Obligations.DecodeOfEncode := fun _ => decode_encode

/-- Settles O3: the word's fields are the command's, and a word is its fields. -/
theorem encodeOfDecode : Obligations.EncodeOfDecode := fun _ _ h => ⟨wf_of_decode h, encode_of_decode h⟩

/-- Settles O1: the decoder run on each word. -/
theorem specExampleWordsDecode : Obligations.SpecExampleWordsDecode := by
  unfold Obligations.SpecExampleWordsDecode
  decide

end WordFields

section OpcodeTable

variable {w : Word} {r : TableRow} {i : Instr}

/-- The mask of a 4-bit field whose legal values are those below `n`, a power of two: the bits in which every
legal value is 0 (30 R105). -/
def belowMask (n : Nat) : BitVec 4 := -BitVec.ofNat 4 n

theorem and_belowMask_eq_zero_iff {n : Nat} (hn : n ∈ [1, 2, 4, 8]) (x : BitVec 4) :
    x &&& belowMask n = 0#4 ↔ x.toNat < n := by
  simp only [List.mem_cons, List.not_mem_nil, or_false] at hn
  rcases hn with rfl | rfl | rfl | rfl <;> revert x <;> decide

theorem unitCount_mem (i : Instr) : i.unitCount ∈ [1, 2, 4, 8] := by cases i <;> simp [Instr.unitCount]

theorem modeCount_mem (i : Instr) : i.modeCount ∈ [1, 2, 4, 8] := by cases i <;> simp [Instr.modeCount]

/-- The row of the opcode table a command stands in: the match word has its OPC, and the mask word leaves free what
UNIT and MODE may be (30 R105). -/
def Instr.tableRow (i : Instr) : TableRow where
  mnemonic := i.mnemonic
  pattern := i.opc ++ 0#4 ++ 0#4 ++ 0#16
  mask := 0xFF#8 ++ belowMask i.unitCount ++ belowMask i.modeCount ++ 0xFFFF#16
  onP1 := i.onControlPort

/-- One command of each row, in the order of the table (30 R105). -/
def rowCommands : List Instr :=
  [.prepare, .reset, .processStereo, .audioBlock, .fltSetcoef 0 .lp, .fltProcess 0, .fltReset 0, .rsDownsample 0,
   .rsUpsample 0, .rsReset 0, .dlyStep, .peakUpdate 0, .peakRead 0, .didxWrite, .didxRead, .statusRead, .testctlWrite]

/-- The table prints the rows of the commands and no other (30 R105). -/
theorem opcodeTable_eq : opcodeTable = rowCommands.map Instr.tableRow := rfl

/-- Every row the table prints is the row of a command (30 R105). -/
theorem exists_tableRow_eq (h : r ∈ opcodeTable) : ∃ i : Instr, i.tableRow = r := by
  rw [opcodeTable_eq] at h
  obtain ⟨i, -, hi⟩ := List.mem_map.1 h
  exact ⟨i, hi⟩

/-- What an OPC names is in the row of that OPC, whatever UNIT and MODE are (30 R105). -/
theorem rowOf_opc (i : Instr) (u mode : BitVec 4) : ∃ j, rowOf i.opc u mode = some j ∧ j.tableRow = i.tableRow := by
  cases i <;> exact ⟨_, rfl, rfl⟩

/-- What an OPC names with UNIT and MODE 0 is the command listed for its row (30 R105). -/
theorem mem_rowCommands {opc : BitVec 8} (h : rowOf opc 0 0 = some i) : i ∈ rowCommands := by
  unfold rowOf at h
  split at h <;> cases h <;> simp [rowCommands, filterTypeOf]

/-- Every command's row is printed in the table (30 R105). -/
theorem tableRow_mem_opcodeTable (i : Instr) : i.tableRow ∈ opcodeTable := by
  obtain ⟨j, hrow, hj⟩ := rowOf_opc i 0 0
  rw [opcodeTable_eq, ← hj]
  exact List.mem_map_of_mem (mem_rowCommands hrow)

/-- The fields of a masked word are its fields masked (30 R105). -/
theorem fields_and (v w : Word) :
    opcField (v &&& w) = opcField v &&& opcField w ∧ unitField (v &&& w) = unitField v &&& unitField w ∧
      modeField (v &&& w) = modeField v &&& modeField w ∧ rsvdField (v &&& w) = rsvdField v &&& rsvdField w := by
  simp [opcField, unitField, modeField, rsvdField, BitVec.extractLsb'_and]

/-- A word matches a command's row when its OPC is the row's, its UNIT and MODE are in the row's range and RSVD is 0
(30 R105). -/
theorem tableRow_matches_iff : i.tableRow.matches w = true ↔
    opcField w = i.opc ∧ (unitField w).toNat < i.unitCount ∧ (modeField w).toNat < i.modeCount ∧
      rsvdField w = 0#16 := by
  obtain ⟨mopc, munit, mmode, mrsvd⟩ :=
    Laws.Fields.fields_append 0xFF#8 (belowMask i.unitCount) (belowMask i.modeCount) 0xFFFF#16
  obtain ⟨popc, punit, pmode, prsvd⟩ := Laws.Fields.fields_append i.opc 0#4 0#4 0#16
  have opc_all (x : BitVec 8) : x &&& 0xFF#8 = x := BitVec.and_allOnes
  have rsvd_all (x : BitVec 16) : x &&& 0xFFFF#16 = x := BitVec.and_allOnes
  simp only [TableRow.matches, Instr.tableRow, beq_iff_eq, word_eq_iff_fields, fields_and, mopc, munit, mmode, mrsvd,
    popc, punit, pmode, prsvd, opc_all, rsvd_all, and_belowMask_eq_zero_iff (unitCount_mem i),
    and_belowMask_eq_zero_iff (modeCount_mem i)]

/-- What decodes is in the row its word matches (30 R105). -/
theorem matches_of_decode (h : decode w = .ok i) : i.tableRow.matches w = true := by
  obtain ⟨hopc, hrsvd, hunit, hmode⟩ := fields_of_decode h
  exact tableRow_matches_iff.2 ⟨hopc, hunit, hmode, hrsvd⟩

/-- A word that matches a row of the table decodes to a command of that row (30 R105). -/
theorem decode_of_matches (hr : r ∈ opcodeTable) (h : r.matches w = true) : ∃ i, decode w = .ok i ∧ i.tableRow = r := by
  obtain ⟨i, rfl⟩ := exists_tableRow_eq hr
  obtain ⟨j, hrow, hj⟩ := rowOf_opc i (unitField w) (modeField w)
  have hopc : opcField w = i.opc := (tableRow_matches_iff.1 h).1
  rw [← hj] at h
  obtain ⟨-, hunit, hmode, hrsvd⟩ := tableRow_matches_iff.1 h
  exact ⟨j, decode_of_rowOf (hopc ▸ hrow) hrsvd hunit hmode, hj⟩

/-- Settles O4: the row a word matches is the row of the command it decodes to. -/
theorem decodeAgreesWithOpcodeTable : Obligations.DecodeAgreesWithOpcodeTable := by
  refine ⟨fun w i h => ⟨i.tableRow, tableRow_mem_opcodeTable i, matches_of_decode h, rfl, rfl⟩,
    fun w r hr h => ?decodes, fun w r hr q hq hrw hqw => ?unique, fun w h => ?illegal⟩
  case decodes =>
    obtain ⟨i, hi, rfl⟩ := decode_of_matches hr h
    exact ⟨i, hi, rfl, rfl⟩
  case unique =>
    obtain ⟨i, hi, rfl⟩ := decode_of_matches hr hrw
    obtain ⟨j, hj, rfl⟩ := decode_of_matches hq hqw
    cases hi.symm.trans hj
    rfl
  case illegal =>
    cases hd : decode w with
    | error e => exact ⟨e, rfl⟩
    | ok i =>
      have unmatched := h _ (tableRow_mem_opcodeTable i)
      exact absurd (matches_of_decode hd) (Bool.eq_false_iff.1 unmatched)

end OpcodeTable

end Sys2Proof

namespace Sys2Proof.Machine

section ControlPort

variable {i : Instr}

/-- The four rows P1 accepts (30 R112). -/
theorem onControlPort_iff :
    i.onControlPort = true ↔ (∃ u, i = .peakRead u) ∨ i = .didxWrite ∨ i = .didxRead ∨ i = .statusRead := by
  cases i <;> simp [Instr.onControlPort]

/-- P1 takes a well-formed command's word for the command when it accepts the row, and for an illegal word when not
(30 R112, R114). -/
theorem decodeOn_p1_encode (hi : i.wf = true) :
    decodeOn .p1 (encode i) = if i.onControlPort then .ok i else .error .port := by
  rw [decodeOn, decode_encode hi]
  rfl

/-- Settles O6: a well-formed command's word decodes, and each port then looks at the row alone. -/
theorem controlPortAcceptsFourCommands : Obligations.ControlPortAcceptsFourCommands := by
  refine ⟨fun i hi => decodeOn_p0_encode hi, fun i hi => ?accepts, fun i s hi hcmd hnot => ?refuses⟩
  case accepts =>
    rw [decodeOn_p1_encode hi, ← onControlPort_iff]
    by_cases haccepted : i.onControlPort = true <;> simp [haccepted]
  case refuses =>
    refine portStep_of_illegal (p := .p1) (e := .port) hcmd ?_
    rw [decodeOn_p1_encode hi, if_neg (mt onControlPort_iff.1 hnot)]

end ControlPort

end Sys2Proof.Machine

/-! ## Filter: what its three commands do, the reset of a resampler, and how a NaN travels through a unit
(40 R130 to R134; 41 R155; 70 R273) -/

namespace Sys2Proof.Machine

section UnitResets

/-- An accepted command whose own tests pass ends in the state of its effect; AUDIO_BLOCK, which may carry a block on,
is left out. -/
theorem exec_of_commandBody {i : Instr} {s t : State} (hi : i ≠ .audioBlock) (haccepts : s.accepts i)
    (hbody : commandBody i s = .ok t) : exec i s = .next t := by
  rw [exec_of_accepts (not_resumes hi) haccepts, hbody, settle]

/-- Settles O37: neither reset has a test of its own, and the effect of each is the write of one unit. -/
theorem unitResetsComplete : Obligations.UnitResetsComplete :=
  ⟨fun _ _ haccepts => exec_of_commandBody nofun haccepts rfl,
   fun _ _ haccepts => exec_of_commandBody nofun haccepts rfl⟩

end UnitResets

section Coefficient

/-- A zero cutoff of either sign gives the coefficient 1.0 (40 R130). -/
theorem coefFn_of_zero (c : CoefChoice) (fs : F64) {fc : F64} (h : magOf fmt64 fc.toNat = 0) : coefFn c fs fc = one32 :=
  if_pos h

/-- `COEF_FN` gives a coefficient in `(0.0, 1.0]` (40 R130). -/
theorem coefFn_inRange (c : CoefChoice) (fs fc : F64) :
    gt32 (coefFn c fs fc) 0#32 = true ∧ ge32 one32 (coefFn c fs fc) = true :=
  Bool.and_eq_true_iff.mp (coefFn_admitted c fs fc)

/-- FLT_SETCOEF with operands in its domain writes A and TYPE of its unit (40 R132). -/
theorem fltSetcoef_of_coefDomain {s : State} {fs fc : F64} (u : BitVec 4) (k : FilterType) (hfs : s.argIs 0 fs)
    (hfc : s.argIs 1 fc) (hdomain : coefDomain fs fc = true) :
    fltSetcoef u k s = .ok (s.setFilter (filterIx u)
      { s.filters[filterIx u] with a := some (coefFn s.params.coef fs fc), kind := some k }) := by
  simp [fltSetcoef, argF64_of_argIs hfs, argF64_of_argIs hfc, hdomain, Bind.bind, Except.bind]

/-- Settles O38: the premises are `coefDomain`, the range is what every coefficient is admitted by, and the decided
default is evaluated at the operands of 95 V-F1. -/
theorem fltSetcoefCompletes : Obligations.FltSetcoefCompletes := by
  unfold Obligations.FltSetcoefCompletes
  refine ⟨fun s u k fs fc haccepts hargs hargc hfs hpos hfc hnonneg hhalf => ?completes, by decide +kernel⟩
  have hdomain : coefDomain fs fc = true := by simp [coefDomain, two64, hfs, hpos, hfc, hnonneg, hhalf]
  obtain ⟨habove, hbelow⟩ := coefFn_inRange s.params.coef fs fc
  refine ⟨exec_of_commandBody nofun haccepts (fltSetcoef_of_coefDomain u k hargs hargc hdomain), habove, hbelow, ?_⟩
  rintro (rfl | rfl) <;> exact coefFn_of_zero _ _ (by decide)

end Coefficient

section FilterStep

/-- FLT_PROCESS on a written unit is one filter step, which leaves the unit written (40 R133). -/
theorem fltProcess_of_toUnit {s : State} {u : BitVec 4} {v : Reg64} {r : FilterRegs} (harg : s.argIs 0 v)
    (hunit : s.filters[filterIx u] = r.toUnit) :
    fltProcess u s = .ok ((s.setFilter (filterIx u) (filterStep [s.free] r (lowHalf v)).2.toUnit).setRes0
      (resF32 (filterStep [s.free] r (lowHalf v)).1)).tick := by
  have hregs : s.filters[filterIx u].regs = .ok r := FilterUnit.regs_eq_ok.mpr hunit
  rw [fltProcess, argF32_of_argIs harg, hregs]
  rfl

/-- Settles O39: on P0, the one port it is accepted on, FLT_PROCESS is one `filterStep`, whose output is the tree of the
unit's TYPE. -/
theorem fltProcessCompletes : Obligations.FltProcessCompletes := by
  intro s u v r haccepts harg hunit x y
  have houtput : filterOutput [s.free] r x = y := by
    obtain ⟨a, kind, yPrev, xPrev⟩ := r
    cases kind <;> rfl
  have hactive : s.active = .p0 := active_of_accepts haccepts rfl
  rw [exec_of_commandBody (i := .fltProcess u) nofun haccepts (fltProcess_of_toUnit harg hunit),
    setRes0_of_p0 (s.setFilter _ _) hactive, ← houtput]
  rfl

/-- A sum with a NaN operand is a NaN (00 R18). -/
theorem add32_isNan (p : Site) {a b : F32} (h : isNan32 a = true ∨ isNan32 b = true) :
    isNan32 (add32 p a b) = true := by
  have hnone : addBits fmt32 a.toNat b.toNat = none := if_pos (Bool.or_eq_true_iff.mpr h)
  rw [add32, hnone]
  exact nan32_isNan p

/-- A difference from a NaN is a NaN (00 R18). -/
theorem sub32_isNan (p : Site) {a : F32} (b : F32) (h : isNan32 a = true) : isNan32 (sub32 p a b) = true := by
  have hnone : addBits fmt32 a.toNat (negBits fmt32 b.toNat) = none := if_pos (Bool.or_eq_true_iff.mpr (.inl h))
  rw [sub32, hnone]
  exact nan32_isNan p

/-- A product with a NaN factor is a NaN, whatever the other factor (00 R18). -/
theorem mul32_isNan (p : Site) (a : F32) {b : F32} (h : isNan32 b = true) : isNan32 (mul32 p a b) = true := by
  have hnone : mulBits fmt32 a.toNat b.toNat = none := if_pos (Bool.or_eq_true_iff.mpr (.inr h))
  rw [mul32, hnone]
  exact nan32_isNan p

/-- A NaN input or a NaN in Y_PREV makes the output a NaN, for both types (40 R133). -/
theorem filterOutput_isNan (p : Site) (r : FilterRegs) (x : F32) (h : isNan32 x = true ∨ isNan32 r.yPrev = true) :
    isNan32 (filterOutput p r x) = true := by
  unfold filterOutput
  split
  case h_1 => exact add32_isNan _ (h.imp (mul32_isNan _ _) (mul32_isNan _ _))
  case h_2 => exact mul32_isNan _ _ (sub32_isNan _ _ (add32_isNan _ h.symm))

/-- A step leaves its output in Y_PREV, so a NaN there is met again by every later step (40 R133, 70 R273). -/
theorem filterRun_isNan (p : Site) (r : FilterRegs) (xs : List F32) (h : isNan32 r.yPrev = true) :
    ∀ y ∈ (filterRun p r xs).1, isNan32 y = true := by
  induction xs generalizing r with
  | nil => exact List.forall_mem_nil _
  | cons x xs ih =>
    have hout := filterOutput_isNan (xs.length :: p) r x (.inr h)
    exact List.forall_mem_cons.mpr ⟨hout, ih _ hout⟩

/-- Settles O40: the output of a step is also its Y_PREV; the runs by `filterRun_isNan`. -/
theorem nanPoisonsFilter : Obligations.NanPoisonsFilter :=
  ⟨fun p r x hx => ⟨filterOutput_isNan p r x (.inl hx), filterOutput_isNan p r x (.inl hx)⟩, filterRun_isNan⟩

end FilterStep

end Sys2Proof.Machine

/-! ## Resampler: the outputs of its two loops, each turn of them, and its two commands on arrays (41 R150 to R154) -/

namespace Sys2Proof.Machine

section EmitLoop

variable (p : Site) (ratio : F64) (last cur : F32) (room : Nat) {ph : F64}

/-- PHASE at 1.0 or above ends the emit loop with nothing emitted (41 R151). -/
theorem emit_of_not_lt (h : lt64 ph one64 = false) :
    emit p ratio last cur room ph = { out := [], phase := ph, room := room } := by
  cases room with
  | zero => rfl
  | succ room => exact if_neg (by simp [h])

/-- PHASE below 1.0 with room left emits one sample and goes on (41 R151). -/
theorem emit_of_lt (h : lt64 ph one64 = true) :
    emit p ratio last cur (room + 1) ph =
      { emit p ratio last cur room (add64 (0 :: room :: p) ph ratio) with
        out := lerp (1 :: room :: p) last cur ph ::
          (emit p ratio last cur room (add64 (0 :: room :: p) ph ratio)).out } :=
  if_pos h

/-- Every sample the emit loop gives takes one of the outputs the cap allows. -/
theorem emit_length_add_room (ph : F64) :
    (emit p ratio last cur room ph).out.length + (emit p ratio last cur room ph).room = room := by
  induction room generalizing ph with
  | zero => rfl
  | succ room ih =>
    cases h : lt64 ph one64 with
    | false => simp [emit_of_not_lt p ratio last cur (room + 1) h]
    | true =>
      have hrest := ih (add64 (0 :: room :: p) ph ratio)
      simp only [emit_of_lt p ratio last cur room h, List.length_cons]
      omega

end EmitLoop

section Downsample

variable (stop : StopRule) (p : Site) (ratio : F64) (room : Nat) (r : ResamplerRegs) (x : F32) (xs : List F32)

@[simp] theorem downsample_nil : downsample stop p ratio room r [] = ([], r) := rfl

/-- BREAK_OUTER at the cap stops before the next input (41 R151). -/
@[simp] theorem downsample_breakOuter_zero : downsample .breakOuter p ratio 0 r xs = ([], r) := by
  cases xs with
  | nil => rfl
  | cons x xs => exact if_pos ⟨rfl, rfl⟩

/-- How Downsample leaves an input whose emit loop has ended: RETURN_INNER returns when the cap ended the loop, and
otherwise the input is consumed (41 R151). -/
def leaveInput (last cur : F32) (e : Emitted) : List F32 × ResamplerRegs :=
  if stop = .returnInner ∧ lt64 e.phase one64 then (e.out, { phase := e.phase, last := last })
  else
    let rest := downsample stop p ratio e.room { phase := sub64 (2 :: xs.length :: p) e.phase one64, last := cur } xs
    (e.out ++ rest.1, rest.2)

/-- Downsample on an input it starts: the emit loop, then what its end says (41 R151). -/
theorem downsample_cons (h : stop = .breakOuter → 0 < room) :
    downsample stop p ratio room r (x :: xs) =
      leaveInput stop p ratio xs r.last x (emit (xs.length :: p) ratio r.last x room r.phase) :=
  if_neg fun ⟨hstop, hroom⟩ => (h hstop).ne' hroom

/-- A sample emitted before the loop went on stands before everything that follows. -/
theorem leaveInput_cons (last cur y : F32) (e : Emitted) :
    leaveInput stop p ratio xs last cur { e with out := y :: e.out } =
      (y :: (leaveInput stop p ratio xs last cur e).1, (leaveInput stop p ratio xs last cur e).2) := by
  unfold leaveInput
  split <;> rfl

/-- PHASE at 1.0 or above: the input is consumed without output (41 R151). -/
theorem downsample_of_not_lt (hlt : lt64 r.phase one64 = false) (h : stop = .breakOuter → 0 < room) :
    downsample stop p ratio room r (x :: xs) =
      downsample stop p ratio room { phase := sub64 (2 :: xs.length :: p) r.phase one64, last := x } xs := by
  rw [downsample_cons stop p ratio room r x xs h, emit_of_not_lt _ _ _ _ _ hlt]
  exact if_neg fun hstop => by simp [hlt] at hstop

/-- PHASE below 1.0 and under the cap: one output, PHASE grows by the ratio, and the same input goes on (41 R151). -/
theorem downsample_of_lt (hlt : lt64 r.phase one64 = true) (h : stop = .breakOuter → 0 < room) :
    let rest := downsample stop p ratio room
      { phase := add64 (0 :: room :: xs.length :: p) r.phase ratio, last := r.last } (x :: xs)
    downsample stop p ratio (room + 1) r (x :: xs) =
      (lerp (1 :: room :: xs.length :: p) r.last x r.phase :: rest.1, rest.2) := by
  intro rest
  have hrest : rest = leaveInput stop p ratio xs r.last x
      (emit (xs.length :: p) ratio r.last x room (add64 (0 :: room :: xs.length :: p) r.phase ratio)) :=
    downsample_cons stop p ratio room _ x xs h
  rw [downsample_cons stop p ratio (room + 1) r x xs fun _ => room.succ_pos, emit_of_lt _ _ _ _ _ hlt, leaveInput_cons,
    hrest]

/-- RETURN_INNER at the cap returns with the input unconsumed (41 R151). -/
theorem downsample_returnInner_zero (hlt : lt64 r.phase one64 = true) :
    downsample .returnInner p ratio 0 r (x :: xs) = ([], r) := by
  rw [downsample_cons .returnInner p ratio 0 r x xs nofun]
  exact if_pos ⟨rfl, hlt⟩

/-- DRAIN at the cap consumes the input without output (41 R151). -/
theorem downsample_drain_zero :
    downsample .drain p ratio 0 r (x :: xs) =
      downsample .drain p ratio 0 { phase := sub64 (2 :: xs.length :: p) r.phase one64, last := x } xs := by
  rw [downsample_cons .drain p ratio 0 r x xs nofun]
  exact if_neg fun hstop => nomatch hstop.1

/-- BREAK_OUTER one below the cap: the input that meets it is consumed, and Downsample stops (41 R151). -/
theorem downsample_breakOuter_one (hlt : lt64 r.phase one64 = true) :
    downsample .breakOuter p ratio 1 r (x :: xs) =
      ([lerp (1 :: 0 :: xs.length :: p) r.last x r.phase],
       { phase := sub64 (2 :: xs.length :: p) (add64 (0 :: 0 :: xs.length :: p) r.phase ratio) one64, last := x }) := by
  rw [downsample_cons .breakOuter p ratio 1 r x xs fun _ => one_pos, emit_of_lt _ _ _ _ _ hlt, leaveInput_cons, emit,
    leaveInput]
  simp

/-- Downsample gives at most `maxOut` outputs (41 R156 (a)). -/
theorem downsample_length_le : (downsample stop p ratio room r xs).1.length ≤ room := by
  induction xs generalizing room r with
  | nil => exact Nat.zero_le room
  | cons x xs ih =>
    by_cases hstop : stop = .breakOuter ∧ room = 0
    · obtain ⟨rfl, rfl⟩ := hstop
      simp
    have hcap := emit_length_add_room (xs.length :: p) ratio r.last x room r.phase
    rw [downsample_cons stop p ratio room r x xs (fun h => Nat.pos_of_ne_zero fun h0 => hstop ⟨h, h0⟩),
      leaveInput]
    split
    case isTrue => exact Nat.le.intro hcap
    case isFalse =>
      rw [List.length_append]
      exact (Nat.add_le_add_left (ih _ _) _).trans hcap.le

end Downsample

section Upsample

variable (p : Site) (ratio : F64) (n : Nat) (r : ResamplerRegs) (x : F32) (xs : List F32)

@[simp] theorem consume_nil : consume p r [] = ([], r) := rfl

/-- PHASE below 1.0: every input stays pending (41 R152). -/
theorem consume_of_not_ge (h : ge64 r.phase one64 = false) : consume p r (x :: xs) = (x :: xs, r) :=
  if_neg (by simp [h])

/-- PHASE at 1.0 or above: the next input becomes LAST and PHASE falls by 1.0 (41 R152). -/
theorem consume_of_ge (h : ge64 r.phase one64 = true) :
    consume p r (x :: xs) = consume p { phase := sub64 (xs.length :: p) r.phase one64, last := x } xs :=
  if_pos h

@[simp] theorem upsample_zero : upsample p ratio 0 r xs = ([], r) := rfl

/-- One output of Upsample, then PHASE grows by the ratio and inputs are consumed (41 R152). -/
theorem upsample_succ :
    let c := consume (2 :: n :: p) { phase := add64 (1 :: n :: p) r.phase ratio, last := r.last } xs
    upsample p ratio (n + 1) r xs =
      (upsampleOutput (0 :: n :: p) r xs :: (upsample p ratio n c.2 c.1).1, (upsample p ratio n c.2 c.1).2) :=
  rfl

/-- Upsample fills the request (41 R152). -/
@[simp] theorem upsample_length : (upsample p ratio n r xs).1.length = n := by
  induction n generalizing r xs with
  | zero => rfl
  | succ n ih => simp [upsample_succ, ih]

/-- Without input each output is LAST, which stays (41 R152). -/
theorem upsample_nil :
    (upsample p ratio n r []).1 = List.replicate n r.last ∧ (upsample p ratio n r []).2.last = r.last := by
  induction n generalizing r with
  | zero => exact ⟨rfl, rfl⟩
  | succ n ih =>
    obtain ⟨hout, hlast⟩ := ih { phase := add64 (1 :: n :: p) r.phase ratio, last := r.last }
    exact ⟨congrArg (r.last :: ·) hout, hlast⟩

end Upsample

section Loops

/-- Settles O33: the emit loop spends the cap output by output, and Upsample counts its request down. -/
theorem resamplerOutputCounts : Obligations.ResamplerOutputCounts :=
  ⟨fun stop p ratio maxOut r xs =>
    ⟨downsample_length_le stop p ratio maxOut r xs, downsample_nil stop p ratio maxOut r⟩,
   fun p ratio n r xs => ⟨upsample_length p ratio n r xs, upsample_zero p ratio r xs, upsample_nil p ratio n r⟩⟩

/-- Settles O34: one equation of `downsample`, `upsample` and `consume` for each line of their pseudocode. -/
theorem resamplersFollowTheirLoops : Obligations.ResamplersFollowTheirLoops := by
  unfold Obligations.ResamplersFollowTheirLoops
  refine ⟨?lerp, ?consumed, ?emitted, ?atCap, downsample_breakOuter_zero, ?upsampled, ?consume⟩
  case lerp => exact fun p last cur ph => ⟨_, _, _, _, _, _, rfl⟩
  case consumed =>
    exact fun stop p ratio room r x xs hlt h => ⟨_, downsample_of_not_lt stop p ratio room r x xs hlt h⟩
  case emitted =>
    exact fun stop p ratio room r x xs hlt h => ⟨_, _, downsample_of_lt stop p ratio room r x xs hlt h⟩
  case atCap =>
    exact fun p ratio r x xs hlt => ⟨downsample_returnInner_zero p ratio r x xs hlt,
      ⟨_, downsample_drain_zero p ratio r x xs⟩, _, _, _, downsample_breakOuter_one p ratio r x xs hlt⟩
  case upsampled =>
    intro p ratio k r xs
    refine ⟨0 :: k :: p, 1 :: k :: p, 2 :: k :: p, ?_⟩
    cases xs with
    | nil => exact upsample_succ p ratio k r []
    | cons x xs => exact upsample_succ p ratio k r (x :: xs)
  case consume =>
    exact fun p r x xs => ⟨consume_nil p r, consume_of_not_ge p r x xs, fun h => ⟨_, consume_of_ge p r x xs h⟩⟩

end Loops

section ArrayCommands

/-- The bytes outside an array are the ones before it and the ones after it (20 R75). -/
theorem inArray_eq_false {base n a : Nat} : inArray base n a = false ↔ a < base ∨ base + 4 * n ≤ a := by
  rw [inArray, decide_eq_false_iff_not]
  omega

/-- Storing an array leaves an element before it alone. -/
theorem memRead_writeArray_before (o : ByteOrder) (ys : List F32) (m : List Host.Cell) {addr base : Nat}
    (h : addr + 4 ≤ base) : memRead o (writeArray o m base ys) addr = memRead o m addr := by
  have hbyte : ∀ j < 4, cellsGet (writeArray o m base ys) (addr + j) = cellsGet m (addr + j) :=
    fun j hj => writeArray_other o ys m (.inl (by omega))
  have h0 : cellsGet (writeArray o m base ys) addr = cellsGet m addr := hbyte 0 (by omega)
  simp only [memRead, h0, hbyte 1 (by omega), hbyte 2 (by omega), hbyte 3 (by omega)]

/-- An array that has been stored reads back (20 R72, R73). -/
theorem readArray_writeArray (o : ByteOrder) (ys : List F32) {m : List Host.Cell} (hm : Memory.wf m = true)
    (base : Nat) : readArray o (writeArray o m base ys) base ys.length = ys := by
  induction ys generalizing m base with
  | nil => rfl
  | cons y ys ih =>
    have hhead : memRead o (writeArray o (memWrite o m base y) (base + 4) ys) base = y :=
      (memRead_writeArray_before o ys _ le_rfl).trans (memRead_memWrite o hm base y)
    exact congrArg₂ List.cons hhead (ih (memWrite_wf o hm base y) (base + 4))

variable {s : State} {u : BitVec 4} {a : ResampleArgs} {inRate outRate : F64} {r : ResamplerRegs}

/-- RS_DOWNSAMPLE with good operands on a written unit stores the outputs of Downsample (41 R153). -/
theorem rsDownsample_of_ready (hready : s.resampleReady a inRate outRate)
    (hunit : s.resamplers[resamplerIx u] = r.toUnit) :
    let o := downsample s.params.stop [s.free] a.ratio a.count r (readArray s.params.byteOrder s.mem a.inBase a.n)
    rsDownsample u s = .ok (s.finishResample (resamplerIx u) a.outBase o.1 o.2) := by
  rw [rsDownsample, resampleArgs_of_ready hready, hunit, resamplerRegs_of_toUnit]
  rfl

/-- RS_UPSAMPLE with good operands on a written unit stores the outputs of Upsample (41 R154). -/
theorem rsUpsample_of_ready (hready : s.resampleReady a inRate outRate)
    (hunit : s.resamplers[resamplerIx u] = r.toUnit) :
    let o := upsample [s.free] a.ratio a.count r (readArray s.params.byteOrder s.mem a.inBase a.n)
    rsUpsample u s = .ok (s.finishResample (resamplerIx u) a.outBase o.1 o.2) := by
  rw [rsUpsample, resampleArgs_of_ready hready, hunit, resamplerRegs_of_toUnit]
  rfl

/-- The state in which a resampler command on P0 ends, register by register (41 R153, R154). -/
theorem finishResample_of_p0 (s : State) (hactive : s.active = .p0) (i : Fin 4) (base : Nat) (ys : List F32)
    (r : ResamplerRegs) :
    s.finishResample i base ys r = { s with
      mem := writeArray s.params.byteOrder s.mem base ys
      p0 := { s.p0 with res0 := some (BitVec.ofInt 64 ys.length) }
      resamplers := s.resamplers.set i r.toUnit
      free := s.free + 1 } := by
  rw [State.finishResample, setRes0_of_p0]
  · rfl
  · exact hactive

/-- What the host finds after a resampler command on P0: the outputs at their array, their number in RES0, the
unit's new registers, and everything else as it was (41 R153, R154). -/
theorem finishResample_effect (hactive : s.active = .p0) (hcanon : s.canonical = true) (i : Fin 4) (base : Nat)
    (ys : List F32) (r : ResamplerRegs) :
    let t := s.finishResample i base ys r
    (readArray s.params.byteOrder t.mem base ys.length = ys ∧
      t.p0 = { s.p0 with res0 := some (BitVec.ofInt 64 ys.length) } ∧
      t.resamplers = s.resamplers.set i r.toUnit ∧
      ∀ b, inArray base ys.length b = false → t.byteAt b = s.byteAt b) ∧
    t = { s with mem := t.mem, p0 := t.p0, resamplers := t.resamplers, free := t.free } := by
  have hmem : Memory.wf s.mem = true := (State.canonical_iff.mp hcanon).1
  rw [finishResample_of_p0 s hactive]
  exact ⟨⟨readArray_writeArray _ ys hmem base, rfl, rfl,
    fun b hb => writeArray_other _ ys s.mem (inArray_eq_false.mp hb)⟩, rfl⟩

/-- Settles O35: the command stores the outputs of Downsample, however many, and `finishResample_effect` reads them
back. -/
theorem rsDownsampleCompletes : Obligations.RsDownsampleCompletes := by
  intro s u a inRate outRate r haccepts hcanon hready hunit
  exact ⟨_, exec_of_commandBody nofun haccepts (rsDownsample_of_ready hready hunit),
    finishResample_effect (active_of_accepts haccepts rfl) hcanon _ _ _ _⟩

/-- Settles O36: likewise, with as many outputs as were requested. -/
theorem rsUpsampleCompletes : Obligations.RsUpsampleCompletes := by
  intro s u a inRate outRate r haccepts hcanon hready hunit
  refine ⟨_, exec_of_commandBody nofun haccepts (rsUpsample_of_ready hready hunit), ?_⟩
  have heffect := finishResample_effect (active_of_accepts haccepts rfl) hcanon (resamplerIx u) a.outBase
    (upsample [s.free] a.ratio a.count r (readArray s.params.byteOrder s.mem a.inBase a.n)).1
    (upsample [s.free] a.ratio a.count r (readArray s.params.byteOrder s.mem a.inBase a.n)).2
  rw [upsample_length] at heffect
  exact heffect

end ArrayCommands

end Sys2Proof.Machine

/-! ## Delay line: the read position, the buffers as a queue of samples wherever the cursor stands, the chain of one
step, and the clamp of the delay (42 R170 to R177, R182, R184, R189) -/

namespace Sys2Proof.Machine

section ReadPosition

variable (w : Nat) (d : Int) {len : Nat}

/-- The read position as the integer R171 writes. -/
theorem readPos_cast (hlen : 0 < len) : (readPos w d len : Int) = ((w : Int) - d) % len :=
  Int.toNat_of_nonneg (Int.emod_nonneg _ (by omega))

theorem readPos_lt (hlen : 0 < len) : readPos w d len < len := by
  have hlt := Int.emod_lt_of_pos ((w : Int) - d) (Int.natCast_pos.mpr hlen)
  rw [← readPos_cast w d hlen] at hlt
  exact Int.ofNat_lt.mp hlt

/-- A cursor one further reads one further back at the same word (42 R171, R177). -/
theorem readPos_advance : readPos ((w + 1) % len) d len = readPos w (d - 1) len := by
  unfold readPos
  rw [Int.natCast_mod, Int.emod_sub_emod]
  congr 2
  push_cast
  ring

/-- The word at the cursor is the one read for the multiples of LEN, and for no other delay (42 R171). -/
theorem readPos_eq_cursor_iff {w : Nat} (hw : w < len) : readPos w d len = w ↔ (len : Int) ∣ d := by
  have hcursor : (w : Int) % len = w := Int.emod_eq_of_lt (by omega) (by omega)
  rw [← Int.natCast_inj, readPos_cast w d (Nat.zero_lt_of_lt hw)]
  constructor
  · intro h
    have hdvd : (len : Int) ∣ (w : Int) - d - w := Int.ModEq.dvd (show (w : Int) % len = _ % len by rw [hcursor, h])
    simpa using hdvd
  · rintro ⟨c, rfl⟩
    rw [Int.sub_mul_emod_self_left, hcursor]

/-- Settles O28: the position is a remainder on division by LEN. -/
theorem readPositionIsInRange : Obligations.ReadPositionIsInRange := by
  intro w d len hlen
  refine ⟨readPos_lt w d hlen, ?_, fun hw => (readPos_eq_cursor_iff d hw).mpr⟩
  rw [readPos_cast w d hlen]
  exact Int.ModEq.dvd (Int.mod_modEq _ _).symm

end ReadPosition

section DelayQueue

namespace DelayLine

/-- A delay line fit to run: canonical buffers and a cursor below LEN (10 R42). -/
structure Fit (l : DelayLine) : Prop where
  canonical : l.Canonical
  cursor : l.writePos < l.len

/-- What stands `d` places back from the cursor in the two buffers (42 R171). -/
def back (l : DelayLine) (d : Int) : F32 × F32 :=
  (cellsGet l.bufL (readPos l.writePos d l.len), cellsGet l.bufR (readPos l.writePos d l.len))

/-- The line once the inputs have been written at the cursor, before anything is read (42 R172). -/
def write (l : DelayLine) (x : F32 × F32) : DelayLine :=
  { l with bufL := cellsSet l.bufL l.writePos x.1, bufR := cellsSet l.bufR l.writePos x.2 }

variable {l : DelayLine} (hl : l.Fit)

include hl

/-- After the write the inputs stand 0 places back, and every other word is where it was. -/
theorem Fit.write_back (x : F32 × F32) (d : Int) :
    (l.write x).back d = if (l.len : Int) ∣ d then x else l.back d := by
  have hcursor := readPos_eq_cursor_iff d hl.cursor
  split
  case isTrue h =>
    simp only [back, write, hcursor.mpr h, cellsGet_cellsSet_same hl.canonical.1, cellsGet_cellsSet_same hl.canonical.2]
  case isFalse h =>
    simp only [back, write, cellsGet_cellsSet_other _ _ (mt hcursor.mp h)]

theorem Fit.delayStep (p : Site) (dr : Draws) (d : Int) (x y : F32) : (delayStep p dr d l x y).2.Fit :=
  ⟨delayStep_canonical hl.canonical p dr d x y, (delayStep_keeps p dr d l x y).writePos hl.cursor⟩

end DelayLine

variable (p : Site) (draws : Nat → Draws) (dr : Draws) (d : Int) (k : Nat) {l : DelayLine} (x y : F32)
  (xs : List (F32 × F32))

/-- A delay step leaves the written line with the cursor one further (42 R172, R177). -/
theorem delayStep_back (j : Int) : (delayStep p dr d l x y).2.back j = (l.write (x, y)).back (j - 1) := by
  have hpos : readPos ((l.writePos + 1) % l.len) j l.len = readPos l.writePos (j - 1) l.len := readPos_advance _ _
  simp only [DelayLine.back, DelayLine.write, delayStep, hpos]

/-- One place back from the cursor stands the input of the last step. -/
theorem delayStep_back_one (hl : l.Fit) : (delayStep p dr d l x y).2.back 1 = (x, y) := by
  rw [delayStep_back, hl.write_back]
  exact if_pos (dvd_zero _)

/-- A delay step moves every older word one place back, until LEN places have been used. -/
theorem delayStep_back_succ (hl : l.Fit) {j : Nat} (hj : 1 ≤ j) (hjlen : j < l.len) :
    (delayStep p dr d l x y).2.back (j + 1 : Nat) = l.back j := by
  have hdvd : ¬ (l.len : Int) ∣ j := fun h => Nat.not_dvd_of_pos_of_lt hj hjlen (Int.natCast_dvd_natCast.mp h)
  rw [delayStep_back, hl.write_back, show ((j + 1 : Nat) : Int) - 1 = j by omega, if_neg hdvd]

/-- A run gives one output per input (42 R184). -/
theorem delayRun_length : (delayRun p draws d k l xs).1.length = xs.length := by
  induction xs generalizing k l with
  | nil => rfl
  | cons x xs ih => exact congrArg Nat.succ (ih (k + 1))

/-- A run moves the cursor by the number of its steps, modulo LEN (42 R177). -/
theorem delayRun_writePos (hl : l.Fit) :
    (delayRun p draws d k l xs).2.writePos = (l.writePos + xs.length) % l.len := by
  induction xs generalizing k l with
  | nil => exact (Nat.mod_eq_of_lt hl.cursor).symm
  | cons x xs ih =>
    refine (ih (k + 1) (hl.delayStep (k :: p) (draws k) d x.1 x.2)).trans ?_
    rw [delayStep_len, delayStep_writePos, Nat.mod_add_mod, List.length_cons, Nat.add_assoc, Nat.add_comm 1]

/-- A run moves every older word as many places back as it has steps, until LEN places have been used. -/
theorem delayRun_back_old (hl : l.Fit) {j : Nat} (hj : 1 ≤ j) (hjlen : j + xs.length ≤ l.len) :
    (delayRun p draws d k l xs).2.back (j + xs.length : Nat) = l.back j := by
  induction xs generalizing k l j with
  | nil => rfl
  | cons x xs ih =>
    rw [List.length_cons, show j + (xs.length + 1) = j + 1 + xs.length by omega] at hjlen ⊢
    exact (ih (k + 1) (hl.delayStep (k :: p) (draws k) d x.1 x.2) (Nat.le_add_left 1 j) hjlen).trans
      (delayStep_back_succ _ _ _ _ _ hl hj (by omega))

/-- After a run the word `j` places back is the input of the step `j` steps ago (42 R171, R172). -/
theorem delayRun_back (hl : l.Fit) {j : Nat} {x : F32 × F32} (hj : 1 ≤ j) (hjlen : j ≤ l.len)
    (hjxs : j ≤ xs.length) (hx : xs[xs.length - j]? = some x) : (delayRun p draws d k l xs).2.back j = x := by
  induction xs generalizing k l with
  | nil => simp at hx
  | cons x₀ xs ih =>
    have hl' := hl.delayStep (k :: p) (draws k) d x₀.1 x₀.2
    rw [List.length_cons] at hjxs hx
    rcases Nat.lt_or_ge xs.length j with hfirst | hlater
    · obtain rfl : j = 1 + xs.length := by omega
      obtain rfl : x₀ = x := by simpa [Nat.add_comm] using hx
      exact (delayRun_back_old _ _ _ _ xs hl' le_rfl hjlen).trans (delayStep_back_one _ _ _ _ _ hl)
    · rw [Nat.sub_add_comm hlater, List.getElem?_cons_succ] at hx
      exact ih (k + 1) hl' hjlen hlater hx

/-- Settles O29: each step moves every word one place further back and puts its input one place back. -/
theorem delayLineDelays : Obligations.DelayLineDelays := by
  intro p draws d k l xs hbufL hbufR hw
  have hl : l.Fit := ⟨⟨hbufL, hbufR⟩, hw⟩
  have hlen : (delayRun p draws d k l xs).2.len = l.len := (delayRun_keeps p draws d k l xs).len
  refine ⟨delayRun_length _ _ _ _ _, hlen, delayRun_writePos _ _ _ _ _ hl, fun j x hj hjlen hjxs hx => ?_⟩
  have hback := delayRun_back p draws d k xs hl hj hjlen hjxs hx
  rw [DelayLine.back, hlen] at hback
  exact Prod.mk_inj.mp hback

end DelayQueue

section PositionFree

namespace DelayLine

/-- Two delay lines that differ at most in where their cursors stand (42 R189). -/
structure Aligned (l m : DelayLine) : Prop where
  len : l.len = m.len
  hpL : l.hpL = m.hpL
  hpR : l.hpR = m.hpR
  lpL : l.lpL = m.lpL
  lpR : l.lpR = m.lpR
  back : ∀ d, l.back d = m.back d

/-- A word is as far back as its distance's remainder modulo LEN. -/
theorem back_emod (l : DelayLine) (d : Int) : l.back (d % l.len) = l.back d := by
  simp only [back, readPos, Int.sub_emod_emod]

/-- The words fewer than LEN places back are all there are. -/
theorem back_eq_of_lt_len {l m : DelayLine} (hpos : 0 < l.len) (hlen : l.len = m.len)
    (h : ∀ j : Nat, j < l.len → l.back j = m.back j) (d : Int) : l.back d = m.back d := by
  have hnonneg : 0 ≤ d % l.len := Int.emod_nonneg d (by omega)
  have hlt : d % l.len < l.len := Int.emod_lt_of_pos d (by omega)
  have hword := h (d % l.len).toNat (by omega)
  rw [Int.toNat_of_nonneg hnonneg, back_emod] at hword
  rw [hword, hlen, back_emod]

variable {l m : DelayLine} (h : l.Aligned m) (hl : l.Fit) (hm : m.Fit)

include h hl hm

theorem Aligned.write_back (x : F32 × F32) (d : Int) : (l.write x).back d = (m.write x).back d := by
  rw [hl.write_back, hm.write_back, h.len, h.back]

/-- A delay step reads nothing but what the relation fixes, so it gives the same outputs and keeps the relation. -/
theorem Aligned.delayStep (p : Site) (dr : Draws) (d : Int) (x y : F32) :
    (delayStep p dr d l x y).1 = (delayStep p dr d m x y).1 ∧
    (delayStep p dr d l x y).2.Aligned (delayStep p dr d m x y).2 := by
  have hread := h.write_back hl hm (x, y)
  obtain ⟨hdlyL, hdlyR⟩ := Prod.mk_inj.mp (hread d)
  simp only [write] at hdlyL hdlyR
  refine ⟨?outputs, { len := h.len, hpL := ?hpL, hpR := ?hpR, lpL := ?lpL, lpR := ?lpR, back := fun j => ?back }⟩
  case back => rw [delayStep_back, delayStep_back, hread]
  all_goals simp only [Machine.delayStep, hdlyL, hdlyR, h.hpL, h.hpR, h.lpL, h.lpR]

theorem Aligned.delayRun (p : Site) (draws : Nat → Draws) (d : Int) (k : Nat) (xs : List (F32 × F32)) :
    (delayRun p draws d k l xs).1 = (delayRun p draws d k m xs).1 ∧
    (delayRun p draws d k l xs).2.Aligned (delayRun p draws d k m xs).2 := by
  induction xs generalizing k l m with
  | nil => exact ⟨rfl, h⟩
  | cons x xs ih =>
    obtain ⟨hout, hstep⟩ := h.delayStep hl hm (k :: p) (draws k) d x.1 x.2
    obtain ⟨houts, hrun⟩ := ih hstep (hl.delayStep _ _ _ _ _) (hm.delayStep _ _ _ _ _) (k + 1)
    exact ⟨congrArg₂ List.cons hout houts, hrun⟩

end DelayLine

/-- Settles O30: lines that differ only in their cursors stay so, step by step. -/
theorem delayLineIsPositionFree : Obligations.DelayLineIsPositionFree := by
  rintro p draws d k l m xs same hlL hlR hmL hmR hlw hmw ⟨hlen, hhpL, hhpR, hlpL, hlpR, hwords⟩
  have haligned : l.Aligned m :=
    ⟨hlen, hhpL, hhpR, hlpL, hlpR,
      DelayLine.back_eq_of_lt_len (Nat.zero_lt_of_lt hlw) hlen fun j hj => Prod.mk_inj.mpr (hwords j hj)⟩
  obtain ⟨hout, hafter⟩ := haligned.delayRun ⟨⟨hlL, hlR⟩, hlw⟩ ⟨⟨hmL, hmR⟩, hmw⟩ p draws d k xs
  exact ⟨hout, hafter.len, hafter.hpL, hafter.hpR, hafter.lpL, hafter.lpR,
    fun j _ => Prod.mk_inj.mp (hafter.back j)⟩

end PositionFree

section Chain

/-- Settles O27: each part is its definition written out, but for the six values of 95 V-Q1, which are computed. -/
theorem delayStepFollowsTheChain : Obligations.DelayStepFollowsTheChain := by
  refine ⟨?step, ?filter, ?quantize, by decide +kernel⟩
  case step => exact fun _ _ _ _ _ _ => ⟨_, _, _, _, _, _, _, _, _, _, _, _, _, _, rfl⟩
  case filter =>
    rintro p ⟨a, kind, yPrev, xPrev⟩ x
    refine ⟨3 :: p, 1 :: p, 0 :: p, 2 :: p, 1 :: p, 0 :: p, ?_⟩
    cases kind <;> rfl
  case quantize => exact fun _ _ _ _ => ⟨_, _, _, _, _, _, _, rfl⟩

/-- Settles O31: between its bounds a clamped value is itself, and a table value is positive. -/
theorem delayIsClamped : Obligations.DelayIsClamped := by
  refine ⟨fun ms len hlen => ?clamp, by decide, fun i m hm => ?table⟩
  case clamp =>
    unfold delaySamples clampInt
    omega
  case table =>
    have hpos : 0 < delayTableMs i := by revert i; decide
    unfold delaySamples clampInt
    omega

end Chain

end Sys2Proof.Machine

/-! ## Downsample: PHASE and the number of outputs do not depend on the samples (41 R151; 42 R186) -/

namespace Sys2Proof.Machine

section FiniteSums

variable {a b : F64}

/-- A finite summand makes no NaN of a value that is none, so nothing is left open in the sum (00 R18). -/
theorem addBits64_of_finite {n : Nat} (ha : isNan64 a = false) (hn : magOf fmt64 n < fmt64.infMag) :
    ∃ c : F64, isNan64 c = false ∧ addBits fmt64 a.toNat n = some c.toNat := by
  have hnan : isNanBits fmt64 n = false := decide_eq_false (by omega)
  have hinf : isInfBits fmt64 n = false := beq_eq_false_iff_ne.mpr (by omega)
  have packed : ∀ (neg : Bool) {mag : Nat}, mag ≤ fmt64.infMag →
      ∃ c : F64, isNan64 c = false ∧ some (packBits fmt64 neg mag) = some c.toNat := by
    intro neg mag hmag
    obtain ⟨hlt, hmagOf⟩ := packBits64 neg hmag
    have htoNat : (BitVec.ofNat 64 (packBits fmt64 neg mag)).toNat = packBits fmt64 neg mag := by
      rw [BitVec.toNat_ofNat, Nat.mod_eq_of_lt hlt]
    refine ⟨BitVec.ofNat 64 (packBits fmt64 neg mag), ?_, by rw [htoNat]⟩
    rw [isNan64, htoNat, isNanBits, hmagOf]
    exact decide_eq_false (by omega)
  unfold addBits
  rw [if_neg (by simpa [hnan, isNan64] using ha)]
  split
  · exact ⟨a, ha, by simp [hinf]⟩
  · simp only [hinf, Bool.false_eq_true, if_false]
    split
    · exact packed _ (Nat.zero_le _)
    · exact packed _ (roundMag_le _ _ _)

theorem add64_of_finite (ha : isNan64 a = false) (hb : isFinite64 b = true) :
    ∃ c : F64, isNan64 c = false ∧ ∀ p, add64 p a b = c := by
  obtain ⟨c, hc, hsum⟩ := addBits64_of_finite ha (of_decide_eq_true hb)
  exact ⟨c, hc, fun p => by rw [add64, hsum, result64, BitVec.ofNat_toNat, BitVec.setWidth_eq]⟩

theorem sub64_one (ha : isNan64 a = false) : ∃ c : F64, isNan64 c = false ∧ ∀ p, sub64 p a one64 = c := by
  have hone : magOf fmt64 (negBits fmt64 one64.toNat) < fmt64.infMag := by decide
  obtain ⟨c, hc, hdiff⟩ := addBits64_of_finite ha hone
  exact ⟨c, hc, fun p => by rw [sub64, hdiff, result64, BitVec.ofNat_toNat, BitVec.setWidth_eq]⟩

end FiniteSums

section SampleFree

/-- Two emit loops that made equally many samples and left equal PHASE and equal room under the cap. -/
structure Emitted.SameCounts (e f : Emitted) : Prop where
  out : e.out.length = f.out.length
  phase : e.phase = f.phase
  room : e.room = f.room

variable (stop : StopRule) (p q : Site) {ratio : F64} (hratio : isFinite64 ratio = true) (room : Nat)

include hratio

/-- The emit loop counts by PHASE and the ratio alone, and leaves a PHASE that is no NaN. -/
theorem emit_sameCounts (last cur last' cur' : F32) {ph : F64} (hph : isNan64 ph = false) :
    (emit p ratio last cur room ph).SameCounts (emit q ratio last' cur' room ph) ∧
    isNan64 (emit p ratio last cur room ph).phase = false := by
  induction room generalizing ph with
  | zero => exact ⟨⟨rfl, rfl, rfl⟩, hph⟩
  | succ room ih =>
    cases hlt : lt64 ph one64 with
    | false =>
      rw [emit_of_not_lt _ _ _ _ _ hlt, emit_of_not_lt _ _ _ _ _ hlt]
      exact ⟨⟨rfl, rfl, rfl⟩, hph⟩
    | true =>
      obtain ⟨ph', hph', hsum⟩ := add64_of_finite hph hratio
      obtain ⟨hcounts, hnan⟩ := ih hph'
      rw [emit_of_lt _ _ _ _ _ hlt, emit_of_lt _ _ _ _ _ hlt, hsum, hsum]
      exact ⟨⟨congrArg Nat.succ hcounts.out, hcounts.phase, hcounts.room⟩, hnan⟩

/-- Downsample makes the same number of outputs and leaves the same PHASE, whatever the samples, LAST and the sites. -/
theorem downsample_sameCounts {r r' : ResamplerRegs} (hnan : isNan64 r.phase = false) (hphase : r.phase = r'.phase)
    {xs ys : List F32} (hlength : xs.length = ys.length) :
    (downsample stop p ratio room r xs).1.length = (downsample stop q ratio room r' ys).1.length ∧
    (downsample stop p ratio room r xs).2.phase = (downsample stop q ratio room r' ys).2.phase := by
  induction xs generalizing room r r' ys with
  | nil =>
    obtain rfl := List.length_eq_zero_iff.mp hlength.symm
    exact ⟨rfl, hphase⟩
  | cons x xs ih =>
    obtain ⟨y, ys, rfl⟩ := List.exists_cons_of_length_eq_add_one hlength.symm
    by_cases hcap : stop = .breakOuter ∧ room = 0
    · obtain ⟨rfl, rfl⟩ := hcap
      simpa using hphase
    have hroom : stop = .breakOuter → 0 < room := fun h => Nat.pos_of_ne_zero fun h0 => hcap ⟨h, h0⟩
    obtain ⟨hcounts, hnan'⟩ :=
      emit_sameCounts (xs.length :: p) (ys.length :: q) hratio room r.last x r'.last y hnan
    obtain ⟨ph, hph, hfall⟩ := sub64_one hnan'
    rw [downsample_cons _ _ _ _ _ _ _ hroom, downsample_cons _ _ _ _ _ _ _ hroom, ← hphase, leaveInput, leaveInput,
      ← hcounts.phase, ← hcounts.room, hfall, hfall]
    split
    case isTrue => exact ⟨hcounts.out, rfl⟩
    case isFalse =>
      obtain ⟨hcount, hleft⟩ := ih _ (r := { phase := ph, last := x }) (r' := { phase := ph, last := y }) hph rfl
        (Nat.succ.inj hlength)
      exact ⟨by rw [List.length_append, List.length_append, hcounts.out, hcount], hleft⟩

end SampleFree

/-- Settles O32: turn by turn, PHASE and the room under the cap are those of the other run. -/
theorem downsampledChannelsStayAligned : Obligations.DownsampledChannelsStayAligned :=
  fun stop p q _ room _ _ _ _ hratio hnan hphase hlength =>
    downsample_sameCounts stop p q hratio room hnan hphase hlength

end Sys2Proof.Machine

/-! ## Delay engine commands: PREPARE, RESET, PROCESS_STEREO with the signal path of a block, and DLY_STEP
(42 R178 to R188) -/

namespace Sys2Proof.Machine

section PrepareAndReset

/-- A word below the bound of a clearing is +0.0 after it (42 R179, R187). -/
theorem cellsGet_cellsClearBelow_of_lt {w : Nat} (cells : List (Nat × BitVec w)) {n k : Nat} (hk : k < n) :
    cellsGet (cellsClearBelow cells n) k = 0#w :=
  (cellsGet_cellsClearBelow cells n k).trans (if_pos hk)

/-- A word at the bound of a clearing or above keeps what it held (log entry 16). -/
theorem cellsGet_cellsClearBelow_of_le {w : Nat} (cells : List (Nat × BitVec w)) {n k : Nat} (hk : n ≤ k) :
    cellsGet (cellsClearBelow cells n) k = cellsGet cells k :=
  (cellsGet_cellsClearBelow cells n k).trans (if_neg hk.not_gt)

variable {s : State}

/-- PREPARE with operands in range and buffers that fit (42 R179). -/
theorem prepare_of_inRange {fs m : Reg64} (hfs : s.argIs 0 fs) (hm : s.argIs 1 m) (hfinite : isFinite64 fs = true)
    (habove : gt64 fs minHostRate = true) (hpos : 1 ≤ (lowHalf m).toInt)
    (hfits : 24 * (lowHalf m).toInt ≤ (s.params.delayRamWords : Int)) :
    prepare s = .ok (s.prepareWith fs (bufferLength (lowHalf m).toInt)) := by
  have hlen := bufferLength_eq hpos
  have hnotBelow : ¬ (lowHalf m).toInt < 1 := by omega
  have hroom : ¬ s.params.delayRamWords < bufferLength (lowHalf m).toInt := by omega
  simp [prepare, argF64_of_argIs hfs, argI32_of_argIs hm, hfinite, habove, hnotBelow, hroom, Bind.bind, Except.bind]

/-- STATUS reads 1 in a session without a fault: PREPARED is set and nothing else (10 R35). -/
theorem statusWord_of_prepared (hfault : s.fault = none) (hlen : 0 < s.len) : s.statusWord = 1#32 := by
  have hcause : s.causeCode = 0#4 := by rw [State.causeCode, hfault]
  have hfaulted : s.faulted = false := by rw [State.faulted, hfault]; rfl
  have hprepared : s.prepared = true := decide_eq_true hlen
  rw [State.statusWord, hcause, hfaulted, hprepared]
  rfl

/-- Settles O21: the state `prepareWith` leaves, register by register. -/
theorem prepareCompletes : Obligations.PrepareCompletes := by
  intro s fs m haccepts hfs hm hfinite habove hpos hfits
  have hlen := bufferLength_eq hpos
  refine ⟨_, exec_of_commandBody nofun haccepts (prepare_of_inRange hfs hm hfinite habove hpos hfits), hlen, rfl, rfl,
    fun k hk => ⟨cellsGet_cellsClearBelow_of_lt _ hk, cellsGet_cellsClearBelow_of_lt _ hk⟩, fun f => ?filter,
    fun r => ?resampler, rfl, ?status, rfl⟩
  case filter =>
    have hunit : (s.prepareWith fs (bufferLength (lowHalf m).toInt)).filters[f] =
        preparedFilter s.params.coef fs f := by simp
    rw [hunit]
    simp [preparedFilter, Fin.ext_iff, aaCutoff, internalRate, hpCutoff, lpCutoff]
  case resampler => simp [ResamplerUnit.cleared]
  case status =>
    refine statusWord_of_prepared rfl ?_
    rw [State.prepareWith_len]
    omega

/-- Settles O22: the state `clearHistory` leaves; the free cursor is a remainder on division by LEN. -/
theorem resetClearsHistory : Obligations.ResetClearsHistory := by
  intro s haccepts
  refine ⟨s.clearHistory, exec_of_commandBody nofun haccepts rfl,
    fun k hk => ⟨cellsGet_cellsClearBelow_of_lt _ hk, cellsGet_cellsClearBelow_of_lt _ hk⟩,
    fun k hk => ⟨cellsGet_cellsClearBelow_of_le _ hk, cellsGet_cellsClearBelow_of_le _ hk⟩, fun f => ?filter,
    fun r => ?resampler, fun hlen => ⟨freeCursor s.len [s.free], Nat.mod_lt _ hlen, if_pos hlen⟩,
    fun hlen => if_neg hlen.not_gt, rfl⟩
  case filter => simp [FilterUnit.cleared]
  case resampler => simp [ResamplerUnit.cleared]

end PrepareAndReset

section Unprepared

variable {s : State} {i : Instr}

/-- A command the port does not accept takes ILLEGAL (30 R112). -/
theorem runCommand_of_not_accepted (h : i.acceptedOn s.active = false) (body : Except Cause State) :
    runCommand i s body = .next (s.faultEntry s.active (encode i) .illegal) := by
  simp [runCommand, h]

/-- A dead session refuses a legal command on P0 that it does not serve (60 R240). -/
theorem runCommand_of_dead (hwf : i.wf = true) (hactive : s.active = .p0) (hfault : s.fault ≠ none)
    (hserves : i.servesDeadSession = false) (body : Except Cause State) :
    runCommand i s body = .next (s.refuse (encode i)) := by
  have hfaulted : s.faulted = true := Option.isSome_iff_ne_none.mpr hfault
  simp [runCommand, hwf, hactive, State.refuses, hfaulted, hserves, Instr.acceptedOn]

/-- Settles O23: `processStereo` tests LEN first; before it come the port's test and the refusal. -/
theorem unpreparedProcessStereoIsNoOp : Obligations.UnpreparedProcessStereoIsNoOp := by
  intro s hlen
  refine ⟨fun hactive hfault => ?runs, fun hactive hfault => runCommand_of_dead rfl hactive hfault rfl _,
    fun hactive => ?illegal⟩
  case runs =>
    have haccepts : s.accepts .processStereo := ⟨rfl, by rw [hactive]; rfl, .inl hfault⟩
    exact exec_of_commandBody nofun haccepts (if_pos hlen)
  case illegal =>
    have hrefused : Instr.processStereo.acceptedOn s.active = false := by rw [hactive]; rfl
    rw [← hactive]
    exact runCommand_of_not_accepted hrefused _

end Unprepared

section StereoOutputs

variable (o : ByteOrder)

/-- An element is what its four bytes say (20 R73). -/
theorem memRead_congr {m n : List Host.Cell} {addr : Nat}
    (h : ∀ b, addr ≤ b → b < addr + 4 → cellsGet m b = cellsGet n b) : memRead o m addr = memRead o n addr := by
  simp only [memRead, h addr (by omega) (by omega), h (addr + 1) (by omega) (by omega),
    h (addr + 2) (by omega) (by omega), h (addr + 3) (by omega) (by omega)]

/-- Two arrays of equally many elements do not overlap when they are empty or one ends before the other (20 R79). -/
theorem overlap_eq_false {base base' n : Nat} :
    overlap base n base' n = false ↔ n = 0 ∨ base + 4 * n ≤ base' ∨ base' + 4 * n ≤ base := by
  rw [overlap, decide_eq_false_iff_not]
  omega

/-- Two output arrays that do not overlap read back what was stored, left and right (20 R73; 42 R180). -/
theorem readArray_writeStereo (ys : List (F32 × F32)) {m : List Host.Cell} (hm : Memory.wf m = true) {outL outR : Nat}
    (hdisjoint : overlap outL ys.length outR ys.length = false) :
    readArray o (writeStereo o m outL outR ys) outL ys.length = ys.map Prod.fst ∧
    readArray o (writeStereo o m outL outR ys) outR ys.length = ys.map Prod.snd := by
  induction ys generalizing m outL outR with
  | nil => exact ⟨rfl, rfl⟩
  | cons y ys ih =>
    rw [List.length_cons, overlap_eq_false] at hdisjoint
    have hml := memWrite_wf o hm outL y.1
    have hafterL : memRead o (writeStereo o m outL outR (y :: ys)) outL = y.1 := by
      refine (memRead_congr o fun b hb hb4 => ?_).trans (memRead_memWrite o hm outL y.1)
      exact (writeStereo_other o ys _ (by omega) (by omega)).trans (memWrite_other o _ y.2 (by omega))
    have hafterR : memRead o (writeStereo o m outL outR (y :: ys)) outR = y.2 := by
      refine (memRead_congr o fun b hb hb4 => ?_).trans (memRead_memWrite o hml outR y.2)
      exact writeStereo_other o ys _ (by omega) (by omega)
    obtain ⟨hrestL, hrestR⟩ := ih (memWrite_wf o hml outR y.2) (outL := outL + 4) (outR := outR + 4)
      (overlap_eq_false.mpr (by omega))
    exact ⟨congrArg₂ List.cons hafterL hrestL, congrArg₂ List.cons hafterR hrestR⟩

end StereoOutputs

section SignalPath

variable {s : State} {e : Engine}

/-- A block gives N outputs on each side (42 R185). -/
theorem blockOutput_length (s : State) (a : StereoArrays) (ms : Int) (e : Engine) :
    (s.blockOutput a ms e).1.1.length = a.n ∧ (s.blockOutput a ms e).1.2.length = a.n := by
  simp [State.blockOutput, engineBlock]

theorem blockOutput_zip_length (s : State) (a : StereoArrays) (ms : Int) (e : Engine) :
    ((s.blockOutput a ms e).1.1.zip (s.blockOutput a ms e).1.2).length = a.n := by
  obtain ⟨hcountL, hcountR⟩ := blockOutput_length s a ms e
  rw [List.length_zip, hcountL, hcountR, Nat.min_self]

/-- The output arrays of operands that are ready do not overlap (20 R79). -/
theorem overlap_outputs_of_ready {a : StereoArrays} (h : s.stereoReady a) : overlap a.outL a.n a.outR a.n = false := by
  obtain ⟨-, -, -, -, -, -, -, -, -, hdisjoint⟩ := h
  simp only [StereoArrays.disjoint, Bool.and_eq_true, Bool.not_eq_true'] at hdisjoint
  obtain ⟨⟨⟨⟨hout, -⟩, -⟩, -⟩, -⟩ := hdisjoint
  exact hout

/-- PROCESS_STEREO on good operands while prepared is the block (42 R180). -/
theorem processStereo_of_ready {a : StereoArrays} {ms : Int} (hlen : 0 < s.len) (hready : s.stereoReady a)
    (hms : s.argI32 5 = .ok ms) (he : s.engine = .ok e) :
    processStereo s = .ok (s.finishBlock a (s.blockOutput a ms e)) := by
  rw [processStereo, if_neg hlen.ne', hms, stereoArgs_of_ready hready]
  simp [State.stereoBlock, he, Bind.bind, Except.bind]

/-- The engine a block ends with is the one the state holds after it. -/
theorem engine_finishBlock (he : s.engine = .ok e) (a : StereoArrays) (ms : Int) :
    (s.finishBlock a (s.blockOutput a ms e)).engine = .ok (s.blockOutput a ms e).2 := by
  obtain ⟨hrate, hline⟩ := engine_eq_ok he
  obtain ⟨hlen, -⟩ := delayLine_eq_ok hline
  have hlen' : (s.blockOutput a ms e).2.line.len = s.len := (delayRun_keeps _ _ _ _ _ _).len.trans hlen
  exact (engine_congr rfl rfl rfl rfl rfl rfl rfl).trans (engine_setEngine s (s.blockOutput a ms e).2 hrate hlen')

/-- Both output arrays read back the outputs of the block (42 R185; 20 R73). -/
theorem readArray_finishBlock {a : StereoArrays} (hmem : Memory.wf s.mem = true) (hready : s.stereoReady a) (ms : Int)
    (e : Engine) :
    let t := s.finishBlock a (s.blockOutput a ms e)
    readArray s.params.byteOrder t.mem a.outL a.n = (s.blockOutput a ms e).1.1 ∧
    readArray s.params.byteOrder t.mem a.outR a.n = (s.blockOutput a ms e).1.2 := by
  obtain ⟨hcountL, hcountR⟩ := blockOutput_length s a ms e
  have hback := readArray_writeStereo s.params.byteOrder (m := s.mem) (outL := a.outL) (outR := a.outR)
    ((s.blockOutput a ms e).1.1.zip (s.blockOutput a ms e).1.2) hmem
  rw [blockOutput_zip_length, List.map_fst_zip (hcountL.trans hcountR.symm).le,
    List.map_snd_zip (hcountR.trans hcountL.symm).le] at hback
  exact hback (overlap_outputs_of_ready hready)

/-- Settles O24: the two output arrays read back, no other byte is written, and the engine goes back into its units. -/
theorem processStereoCompletes : Obligations.ProcessStereoCompletes := by
  intro s a ms haccepts hcanon hsession hlen hready hms
  obtain ⟨e, he⟩ := engine_of_sessionOk hsession hlen
  obtain ⟨hbackL, hbackR⟩ := readArray_finishBlock (State.canonical_iff.mp hcanon).1 hready ms e
  refine ⟨_, e, exec_of_commandBody nofun haccepts (processStereo_of_ready hlen hready hms he), he, hbackL, hbackR,
    engine_finishBlock he a ms, fun b hL hR => ?frame, rfl⟩
  rw [inArray_eq_false, ← blockOutput_zip_length s a ms e] at hL hR
  exact writeStereo_other _ _ _ hL hR

/-- Settles O25: the units by `engine_units`, the path by the definition of `engineBlock`, the counts of 95 V-D3
computed. -/
theorem blockFollowsTheSignalPath : Obligations.BlockFollowsTheSignalPath := by
  refine ⟨fun s a ms e he => ⟨?engine, ?path⟩, fun p r x xs => ⟨_, rfl, rfl⟩,
    fun p draws d k l x y xs => ⟨_, rfl, rfl⟩, fun c => ?counts⟩
  case engine =>
    obtain ⟨hrate, hline⟩ := engine_eq_ok he
    obtain ⟨hlen, hcursor, hbufL, hbufR, -⟩ := delayLine_eq_ok hline
    exact ⟨hrate, hcursor, hlen, hbufL, hbufR, engine_units he⟩
  case path =>
    obtain ⟨hlen, -⟩ := delayLine_eq_ok (engine_eq_ok he).2
    let p : Site := [s.free]
    refine ⟨0 :: p, 1 :: p, [], [], 2 :: p, 9 :: p, 3 :: p, 4 :: p, 5 :: p, 10 :: p, 6 :: p, 7 :: p, 8 :: p, ?_⟩
    simp only [State.blockOutput, engineBlock, readArray_length, hlen]
    rfl
  case counts =>
    refine ⟨congrArg (min · c) ?_, congrArg (min · c) ?_, congrArg (min · c) ?_, congrArg (min · c) ?_,
      congrArg (min · c) ?_, congrArg (min · c) ?_⟩ <;> decide +kernel

end SignalPath

section DlyStep

variable {s : State} {l : DelayLine}

/-- Writing RES1 for a command on P0. -/
theorem setRes1_of_p0 (s : State) (hactive : s.active = .p0) (v : Reg64) :
    s.setRes1 v = { s with p0 := { s.p0 with res1 := some v } } := by
  simp [State.setRes1, hactive, State.setPort, State.port]

/-- DLY_STEP on P0 with its ARGs written while prepared is one delay step (42 R178). -/
theorem dlyStep_of_args {x y d : Reg64} (hactive : s.active = .p0) (hlen : 0 < s.len) (hx : s.argIs 0 x)
    (hy : s.argIs 1 y) (hd : s.argIs 2 d) (hl : s.delayLine = .ok l) :
    let o := delayStep [s.free] (drawsAt s.norand [s.free]) (lowHalf d).toInt l (lowHalf x) (lowHalf y)
    dlyStep s = .ok { s.setDelayLine o.2 with
      p0 := { s.p0 with res0 := some (resF32 o.1.1), res1 := some (resF32 o.1.2) }
      free := s.free + 1 } := by
  intro o
  have hstep : dlyStep s = .ok (((s.setDelayLine o.2).setRes0 (resF32 o.1.1)).setRes1 (resF32 o.1.2)).tick := by
    simp [dlyStep, argF32_of_argIs hx, argF32_of_argIs hy, argI32_of_argIs hd, hlen.ne', hl, o, Bind.bind, Except.bind]
  rw [hstep, setRes0_of_p0 (s.setDelayLine o.2) hactive, setRes1_of_p0]
  · rfl
  · exact hactive

/-- Putting back a delay line leaves units 0 to 3 alone (10 R43). -/
theorem setDelayLine_filters_low (s : State) (l : DelayLine) {f : Fin 8} (hf : f.val < 4) :
    (s.setDelayLine l).filters[f] = s.filters[f] := by
  rw [State.setDelayLine_filters, Fin.getElem_fin, Vector.getElem_set_ne _ _ (by omega),
    Vector.getElem_set_ne _ _ (by omega), Vector.getElem_set_ne _ _ (by omega), Vector.getElem_set_ne _ _ (by omega)]
  rfl

/-- A filter unit moves on with its A and TYPE (10 R44). -/
def FilterUnit.SameFilter (f g : FilterUnit) : Prop := g.a = f.a ∧ g.kind = f.kind

theorem FilterUnit.SameFilter.of_toUnit {f : FilterUnit} {r q : FilterRegs} (hf : f = r.toUnit) (ha : q.a = r.a)
    (hkind : q.kind = r.kind) : f.SameFilter q.toUnit := by
  subst hf
  exact ⟨congrArg some ha, congrArg some hkind⟩

/-- A delay step put back keeps A and TYPE of every unit (40 R131). -/
theorem setDelayLine_delayStep_sameFilter (hl : s.delayLine = .ok l) (p : Site) (dr : Draws) (d : Int) (x y : F32)
    (f : Fin 8) : s.filters[f].SameFilter (s.setDelayLine (delayStep p dr d l x y).2).filters[f] := by
  obtain ⟨-, -, -, -, h4, h5, h6, h7⟩ := delayLine_eq_ok hl
  let m := (delayStep p dr d l x y).2
  have same : ∀ j : Fin 8, s.filters[j].SameFilter s.filters[j] := fun _ => ⟨rfl, rfl⟩
  have u4 := vector_forall_set same 4 (.of_toUnit h4 (q := m.hpL) rfl rfl)
  have u5 := vector_forall_set u4 5 (.of_toUnit h5 (q := m.hpR) rfl rfl)
  have u6 := vector_forall_set u5 6 (.of_toUnit h6 (q := m.lpL) rfl rfl)
  exact vector_forall_set u6 7 (.of_toUnit h7 (q := m.lpR) rfl rfl) f

/-- Settles O26: the results go to RES0 and RES1 of P0, the line after the step goes back into its registers. -/
theorem dlyStepCompletes : Obligations.DlyStepCompletes := by
  intro s x y d haccepts hsession hlen hx hy hd
  obtain ⟨e, he⟩ := engine_of_sessionOk hsession hlen
  have hl : s.delayLine = .ok e.line := (engine_eq_ok he).2
  obtain ⟨hlineLen, hcursor, hbufL, hbufR, -⟩ := delayLine_eq_ok hl
  have hactive : s.active = .p0 := active_of_accepts haccepts rfl
  refine ⟨_, e.line, e.line.writePos,
    exec_of_commandBody (i := .dlyStep) nofun haccepts (dlyStep_of_args hactive hlen hx hy hd hl), hl, hcursor,
    ⟨rfl, delayLine_setDelayLine s _ hlineLen⟩, ?cursor, ?bufL, ?bufR,
    setDelayLine_delayStep_sameFilter hl _ _ _ _ _, fun f hf => setDelayLine_filters_low s _ hf, rfl⟩
  case cursor => rw [← hlineLen]; rfl
  case bufL => rw [← hbufL]; rfl
  case bufR => rw [← hbufR]; rfl

end DlyStep

end Sys2Proof.Machine

/-! ## Peak meter: what its two commands do, the decay of a value towards zero, and the sign of the peak registers
(43 R200 to R203) -/

namespace Sys2Proof.Machine

section Decay

/-- A value `b` that lies between zero and `a`, on `a`'s side: no NaN, the sign of `a`, a magnitude not above `a`'s. -/
structure TowardsZero (a b : F32) : Prop where
  notNan : isNan32 b = false
  sign : isNeg fmt32 b.toNat = isNeg fmt32 a.toNat
  mag : magOf fmt32 b.toNat ≤ magOf fmt32 a.toNat

/-- A packed value with the sign of `a` and a magnitude that is not above `a`'s, nor above infinity's. -/
theorem towardsZero_packBits {a : F32} {mag : Nat} (hmag : mag ≤ magOf fmt32 a.toNat) (hinf : mag ≤ fmt32.infMag) :
    TowardsZero a (BitVec.ofNat 32 (packBits fmt32 (isNeg fmt32 a.toNat) mag)) := by
  obtain ⟨htoNat, hmagOf, hsign⟩ := packBits32 (isNeg fmt32 a.toNat) hinf
  refine ⟨?_, by rw [htoNat, hsign], by rwa [htoNat, hmagOf]⟩
  rw [isNan32, htoNat, isNanBits, hmagOf]
  exact decide_eq_false hinf.not_gt

/-- The decay factor, a positive finite value not above 1.0, moves every value towards zero; infinity stays where it is
(43 R200; 00 R18). -/
theorem mul32_peakDecay_towardsZero (p : Site) {a : F32} (ha : isNan32 a = false) :
    TowardsZero a (mul32 p a peakDecay) := by
  obtain ⟨hnan, hinf, hneg⟩ := classify_of_lt_infMag (b := peakDecay.toNat) (by decide)
  rw [isNan32] at ha
  have hnonzero : magOf fmt32 peakDecay.toNat ≠ 0 := by decide
  have hle_one : units fmt32 (magOf fmt32 peakDecay.toNat) ≤ 2 ^ fmt32.scale := by decide
  cases haInf : isInfBits fmt32 a.toNat with
  | true =>
    have hmag : magOf fmt32 a.toNat = fmt32.infMag := eq_of_beq haInf
    have hprod : mulBits fmt32 a.toNat peakDecay.toNat = some (packBits fmt32 (isNeg fmt32 a.toNat) fmt32.infMag) := by
      have hinfMag : fmt32.infMag ≠ 0 := by decide
      simp [mulBits, ha, hnan, hneg, haInf, hmag, hnonzero, hinfMag]
    rw [mul32, hprod]
    exact towardsZero_packBits hmag.ge le_rfl
  | false =>
    have hprod : mulBits fmt32 a.toNat peakDecay.toNat = some (packBits fmt32 (isNeg fmt32 a.toNat)
        (roundMag fmt32 (units fmt32 (magOf fmt32 a.toNat) * units fmt32 (magOf fmt32 peakDecay.toNat))
          (2 ^ fmt32.scale))) := by
      simp [mulBits, ha, hnan, hneg, haInf, hinf]
    rw [mul32, hprod]
    exact towardsZero_packBits (roundMag_le_of_le (Nat.two_pow_pos _) (Nat.mul_le_mul_left _ hle_one))
      (roundMag_le _ _ _)

variable {a b : F32}

/-- From a value at least 0 a move towards zero ends at least 0. -/
theorem TowardsZero.ge32_zero (h : TowardsZero a b) (ha : ge32 a 0#32 = true) : ge32 b 0#32 = true := by
  obtain ⟨-, hzero⟩ := ge32_zero_iff.mp ha
  refine ge32_zero_iff.mpr ⟨h.notNan, fun hneg => Nat.le_zero.mp ?_⟩
  exact (hzero (h.sign ▸ hneg)) ▸ h.mag

/-- From a value at least 0 a move towards zero does not rise. -/
theorem TowardsZero.ge32 (h : TowardsZero a b) (ha : ge32 a 0#32 = true) : ge32 a b = true := by
  obtain ⟨hnan, hzero⟩ := ge32_zero_iff.mp ha
  have horder : orderKey fmt32 b.toNat ≤ orderKey fmt32 a.toNat := by
    have hmag := h.mag
    rw [orderKey, orderKey, h.sign]
    split
    case isTrue hneg => have := hzero hneg; omega
    case isFalse => exact Int.ofNat_le.mpr hmag
  have hnotNan := h.notNan
  rw [isNan32] at hnan hnotNan
  simp [Machine.ge32, geBits, hnan, hnotNan, horder]

/-- Settles O43: without an attack the next value is the decay of the old one, which moves towards zero. -/
theorem peakDecayNeverRises : Obligations.PeakDecayNeverRises := by
  intro p pk x hpk hnoAttack
  have hdecays : peakNext p pk x = mul32 p pk peakDecay := if_neg (by simp [hnoAttack])
  rw [hdecays]
  exact (mul32_peakDecay_towardsZero p (ge32_zero_iff.mp hpk).1).ge32 hpk

end Decay

section PeakSign

/-- A magnitude that compares greater than something is at least 0: it has no sign and is not a NaN. -/
theorem ge32_zero_of_abs32_gt {x pk : F32} (h : gt32 (abs32 x) pk = true) : ge32 (abs32 x) 0#32 = true := by
  simp only [gt32, ltBits, Bool.and_eq_true, Bool.not_eq_true'] at h
  obtain ⟨⟨-, hnan⟩, -⟩ := h
  have hlt : (abs32 x).toNat < fmt32.signBit := by
    have hbits : (abs32 x).toNat ≤ 0x7FFFFFFF := by rw [abs32, BitVec.toNat_and]; exact Nat.and_le_right
    exact Nat.lt_of_le_of_lt hbits (by decide)
  exact ge32_zero_iff.mpr ⟨hnan, fun hneg => absurd (of_decide_eq_true hneg) hlt.not_ge⟩

/-- A sample leaves a peak value at least 0: an attack is a magnitude, and a decay moves towards zero (43 R203 (a)). -/
theorem peakNext_nonneg (p : Site) {pk : F32} (x : F32) (h : ge32 pk 0#32 = true) :
    ge32 (peakNext p pk x) 0#32 = true := by
  unfold peakNext
  split
  case isTrue hattack => exact ge32_zero_of_abs32_gt hattack
  case isFalse => exact (mul32_peakDecay_towardsZero p (ge32_zero_iff.mp h).1).ge32_zero h

/-- Every peak register is at least 0, channel by channel. -/
theorem State.peaksOk_iff {s : State} : s.peaksOk = true ↔ ∀ c : Fin 4, ge32 s.peaks[c] 0#32 = true := by
  rw [State.peaksOk, Vector.all_eq_true]
  exact ⟨fun h c => h c c.isLt, fun h c hc => h ⟨c, hc⟩⟩

/-- One sample metered leaves every peak register at least 0. -/
theorem peakUpdate_peaksOk {s : State} (c : Fin 4) (x : F32) (h : s.peaksOk = true) :
    (s.peakUpdate c x).peaksOk = true := by
  rw [State.peaksOk_iff] at h ⊢
  exact vector_forall_set (R := fun _ v => ge32 v 0#32 = true) (u := s.peaks) h c
    (peakNext_nonneg [s.free] x (h c))

/-- The parameters are admitted, so that a power cycle starts the peaks at least 0, and the peaks are at least 0. -/
def State.MeterSound (s : State) : Prop := paramsAdmitted s.params = true ∧ s.peaksOk = true

variable {s t : State}

theorem State.MeterSound.congr (h : s.MeterSound) (hparams : t.params = s.params) (hpeaks : t.peaks = s.peaks) :
    t.MeterSound := by
  rwa [State.MeterSound, State.peaksOk, hparams, hpeaks]

theorem State.MeterSound.peakUpdate (h : s.MeterSound) (c : Fin 4) (x : F32) : (s.peakUpdate c x).MeterSound :=
  ⟨h.1, peakUpdate_peaksOk c x h.2⟩

/-- PEAK_UPDATE meters a sample; no other command writes a peak register (43 R201). -/
theorem commandBody_meterSound {i : Instr} (hs : s.MeterSound) (hu : commandBody i s = .ok t) : t.MeterSound := by
  refine commandBody_cases hu State.MeterSound ?prepare ?reset ?unprepared ?processStereo ?audioBlock ?fltSetcoef
    ?fltProcess ?fltReset ?resample ?rsReset ?dlyStep ?peakUpdate ?res0 ?didxWrite ?testctlWrite
  case peakUpdate => exact fun _ x _ => hs.peakUpdate _ x
  all_goals intros; exact hs.congr (by simp) (by simp)

theorem meterSound_isInvariant : IsInvariant State.MeterSound where
  same h hs := hs.congr h.params h.peaks
  faultEntry _ _ _ hs := hs
  peakUpdate c x hs := hs.peakUpdate c x
  stereoBlock h hs := by
    obtain ⟨e, -, h⟩ := bind_eq_ok h
    cases h; exact hs
  command hu hs := commandBody_meterSound hs hu
  powerOn hs := ⟨hs.1, powerOn_peaksOk hs.1⟩

/-- Settles O42: the peaks and the parameters they start from are together an invariant of every part of a step. -/
theorem peaksStayNonNegative : Obligations.PeaksStayNonNegative :=
  fun _ _ hparams hpeaks h => (meterSound_isInvariant.step h ⟨hparams, hpeaks⟩).2

end PeakSign

section PeakCommands

/-- PEAK_UPDATE with its ARG written meters the low half of it (43 R201). -/
theorem peakUpdate_of_argIs {s : State} {v : Reg64} (u : BitVec 4) (harg : s.argIs 0 v) :
    peakUpdate u s = .ok (s.peakUpdate (peakIx u) (lowHalf v)) := by
  rw [peakUpdate, argF32_of_argIs harg]
  rfl

/-- Settles O41: PEAK_UPDATE meters its operand, and the effect of PEAK_READ is the write of RES0. -/
theorem peakCommandsComplete : Obligations.PeakCommandsComplete :=
  ⟨fun _ u _ haccepts harg => exec_of_commandBody nofun haccepts (peakUpdate_of_argIs u harg),
   fun _ _ haccepts => exec_of_commandBody nofun haccepts rfl⟩

end PeakCommands

end Sys2Proof.Machine

/-! ## Control: the commands of the control registers, the sub-steps of AUDIO_BLOCK, how many there are, and the block
in progress between them (44 R211 to R215; 10 R35 to R38) -/

namespace Sys2Proof.Machine

section ControlRegisters

/-- An index 0 to 5 is the operand that names it (44 R212). -/
@[simp] theorem delayIndexOf_val (i : Fin 6) : delayIndexOf (i.val : Int) = some i := by
  revert i; decide

theorem didxWrite_of_argIs {s : State} {v : Reg64} {i : Fin 6} (harg : s.argIs 0 v)
    (hv : (lowHalf v).toInt = (i.val : Int)) : didxWrite s = .ok { s with delayIndex := some i } := by
  simp [didxWrite, argI32_of_argIs harg, hv, Bind.bind, Except.bind]

theorem didxRead_of_written {s : State} {i : Fin 6} (h : s.delayIndex = some i) :
    didxRead s = .ok (s.setRes0 (BitVec.ofNat 64 i.val)) := by
  rw [didxRead, h, ← BitVec.ofInt_natCast]
  rfl

/-- Of the values 0 and 1 the bits 31:1 are 0, and bit 0 tells them apart (10 R37, R38). -/
theorem controlBits {v : BitVec 32} (hv : v.toNat ≤ 1) :
    v.extractLsb' 1 31 = 0#31 ∧ (v = 1#32 ↔ v.getLsbD 0 = true) := by
  obtain rfl | rfl : v = 0#32 ∨ v = 1#32 := by bv_omega
  · decide
  · decide

theorem testctlWrite_of_argIs {s : State} {v : Reg64} (harg : s.argIs 0 v) (hv : (lowHalf v).toNat ≤ 1) :
    testctlWrite s = .ok { s with testctl := lowHalf v } := by
  simp [testctlWrite, argF32_of_argIs harg, (controlBits hv).1, Bind.bind, Except.bind]

/-- Settles O44: each command's own test passes, and its effect is the write of one register. -/
theorem controlRegisterCommandsComplete : Obligations.ControlRegisterCommandsComplete :=
  ⟨fun _ _ _ haccepts harg hv => exec_of_commandBody nofun haccepts (didxWrite_of_argIs harg hv),
   fun _ _ haccepts hindex => exec_of_commandBody nofun haccepts (didxRead_of_written hindex),
   fun _ _ haccepts harg hv =>
     ⟨exec_of_commandBody nofun haccepts (testctlWrite_of_argIs harg hv), (controlBits hv).2⟩⟩

/-- Where the fields of STATUS stand in the word (10 R35). -/
theorem statusFields (cause : BitVec 4) (faulted prepared : Bool) :
    let w : BitVec 32 := 0#24 ++ cause ++ 0#2 ++ BitVec.ofBool faulted ++ BitVec.ofBool prepared
    w.getLsbD 0 = prepared ∧ w.getLsbD 1 = faulted ∧ w.extractLsb' 2 2 = 0#2 ∧ w.extractLsb' 8 24 = 0#24 ∧
      w.extractLsb' 4 4 = cause := by
  revert cause faulted prepared; decide

/-- Settles O45: STATUS_READ has no test of its own; the fields of the word it returns by `statusFields`. -/
theorem statusReadCompletes : Obligations.StatusReadCompletes := by
  intro s haccepts
  obtain ⟨hprepared, hfaulted, hlow, hhigh, hcause⟩ := statusFields s.causeCode s.faulted s.prepared
  refine ⟨exec_of_commandBody nofun haccepts rfl, ?prepared, ?faulted, hlow, hhigh, ?cause⟩
  case prepared => rw [State.statusWord, hprepared, State.prepared, decide_eq_true_iff]
  case faulted => rw [State.statusWord, hfaulted, State.faulted, Option.isSome_iff_ne_none]
  case cause =>
    rw [State.statusWord, hcause, State.causeCode]
    cases s.fault with
    | none => rfl
    | some c => cases c <;> rfl

end ControlRegisters

section SubSteps

variable {s t : State} {b : Block} {i : Nat} {side : Side}

/-- AUDIO_BLOCK on good operands with a written DELAY_INDEX does S0 (44 R211). -/
theorem exec_audioBlock_of_ready {a : StereoArrays} {idx : Fin 6} (haccepts : s.accepts .audioBlock)
    (hblock : s.block = none) (hready : s.stereoReady a) (hidx : s.delayIndex = some idx) :
    exec .audioBlock s = .next { s with
      block := some { inL := a.inL, inR := a.inR, outL := a.outL, outR := a.outR, n := a.n, idx := idx
                      stage := firstStage a.n } } := by
  have hstarts : ¬ s.resumes .audioBlock := fun ⟨_, _, hsome⟩ => by simp [hblock] at hsome
  rw [exec_of_accepts hstarts haccepts, commandBody, audioStart, stereoArgs_of_ready hready, hidx]
  rfl

/-- Settles O47: the start of a block, at the stage `firstStage` names. -/
theorem audioBlockStarts : Obligations.AudioBlockStarts :=
  fun _ _ _ => exec_audioBlock_of_ready

theorem audioSubStep_meterIn (s : State) (h : b.stage = .meterIn i side) :
    audioSubStep b s =
      (s.peakUpdate (inputChannel side) (memRead s.params.byteOrder s.mem (b.inBase side + 4 * i))).advanceBlock b
        (some (stageAfterIn b.n i side)) := by
  rw [audioSubStep, h]

theorem audioSubStep_meterOut (s : State) (h : b.stage = .meterOut i side) :
    audioSubStep b s =
      (s.peakUpdate (outputChannel side) (memRead s.params.byteOrder s.mem (b.outBase side + 4 * i))).advanceBlock b
        (stageAfterOut b.n i side) := by
  rw [audioSubStep, h]

theorem audioSubStep_process (h : b.stage = .process) (ht : s.processBlock b = .ok t) :
    audioSubStep b s = t.advanceBlock b (stageAfterProcess b.n) := by
  simp only [audioSubStep, h, ht]

/-- A block goes on at a stage or ends, as a test says. -/
theorem advanceBlock_ite (s : State) (b : Block) (c : Prop) [Decidable c] (stage : BlockStage) :
    s.advanceBlock b (if c then some stage else none) =
      { s with block := if c then some { b with stage := stage } else none } := by
  split <;> rfl

/-- Settles O48: the sub-step in progress is a meter, whose side says which array, channel and next stage. -/
theorem audioBlockMeters : Obligations.AudioBlockMeters := by
  intro s b i hactive hblock
  rw [exec_of_resumes hactive hblock]
  refine ⟨fun h => ?inLeft, fun h => ?inRight, fun h => ?outLeft, fun h => ?outRight⟩
  case inLeft => rw [audioSubStep_meterIn s h]; rfl
  case inRight => rw [audioSubStep_meterIn s h]; rfl
  case outLeft => rw [audioSubStep_meterOut s h]; rfl
  case outRight => rw [audioSubStep_meterOut s h, stageAfterOut, advanceBlock_ite]; rfl

/-- While LEN = 0 a block has no signal path (42 R181). -/
theorem processBlock_of_unprepared (b : Block) (hlen : s.len = 0) : s.processBlock b = .ok s := by
  simp [State.processBlock, hlen]

/-- While prepared a block is that of its arrays, with the delay of its snapshot (44 R210, R211). -/
theorem processBlock_of_engine {e : Engine} (b : Block) (hlen : 0 < s.len) (he : s.engine = .ok e) :
    s.processBlock b = .ok (s.finishBlock b.arrays (s.blockOutput b.arrays (delayTableMs b.idx) e)) := by
  rw [State.processBlock, if_pos hlen, State.stereoBlock, he]
  rfl

/-- Settles O49: the signal path of the block is the one PROCESS_STEREO has, and nothing in it can fault. -/
theorem audioBlockProcesses : Obligations.AudioBlockProcesses := by
  intro s b hactive hblock hstage hsession
  refine ⟨fun hlen => ?unprepared, fun hlen => ?prepared⟩
  case unprepared =>
    rw [exec_of_resumes hactive hblock, audioSubStep_process hstage (processBlock_of_unprepared b hlen),
      stageAfterProcess, advanceBlock_ite]
  case prepared =>
    obtain ⟨e, he⟩ := engine_of_sessionOk hsession hlen
    refine ⟨_, e, exec_of_resumes hactive hblock, he, ?_⟩
    rw [audioSubStep_process hstage (processBlock_of_engine b hlen he), stageAfterProcess, advanceBlock_ite]
    refine ⟨(engine_congr rfl rfl rfl rfl rfl rfl rfl).trans (engine_finishBlock he b.arrays (delayTableMs b.idx)), rfl,
      fun x hL hR => ?frame, rfl⟩
    rw [inArray_eq_false] at hL hR
    have hcount := blockOutput_zip_length s b.arrays (delayTableMs b.idx) e
    exact writeStereo_other _ _ _ (by rwa [hcount]) (by rwa [hcount])

end SubSteps

section Stages

/-- The sub-step that follows another in a block of `n` samples; none after the last (44 R211). -/
def BlockStage.next (n : Nat) : BlockStage → Option BlockStage
  | .meterIn i side => some (stageAfterIn n i side)
  | .process => stageAfterProcess n
  | .meterOut i side => stageAfterOut n i side

/-- The sub-step exists in a block of `n` samples (44 R211). -/
def BlockStage.InRange (n : Nat) : BlockStage → Prop
  | .meterIn i _ => i < n
  | .process => True
  | .meterOut i _ => i < n

/-- How many sub-steps of a block of `n` samples are left when one of them comes next, that one included: two meters per
element of the inputs and of the outputs, and S2 between them (44 R211). -/
def BlockStage.stepsLeft (n : Nat) : BlockStage → Nat
  | .meterIn i .left => 2 * (n - i) + 1 + 2 * n
  | .meterIn i .right => 2 * (n - i) + 2 * n
  | .process => 1 + 2 * n
  | .meterOut i .left => 2 * (n - i)
  | .meterOut i .right => 2 * (n - i) - 1

variable {n : Nat} {st : BlockStage}

/-- A sub-step that exists is the last, or it is followed by one that exists and from which one fewer is left (44 R211). -/
theorem BlockStage.next_cases (h : st.InRange n) :
    (st.next n = none ∧ st.stepsLeft n = 1) ∨
    ∃ st', st.next n = some st' ∧ st'.InRange n ∧ st.stepsLeft n = st'.stepsLeft n + 1 := by
  cases st with
  | meterIn i side =>
    have hi : i < n := h
    cases side with
    | left => exact .inr ⟨.meterIn i .right, rfl, hi, by simp only [stepsLeft]; omega⟩
    | right =>
      by_cases hmore : i + 1 < n
      · exact .inr ⟨.meterIn (i + 1) .left, congrArg some (if_pos hmore), hmore, by simp only [stepsLeft]; omega⟩
      · exact .inr ⟨.process, congrArg some (if_neg hmore), trivial, by simp only [stepsLeft]; omega⟩
  | process =>
    by_cases hn : 0 < n
    · exact .inr ⟨.meterOut 0 .left, if_pos hn, hn, by simp only [stepsLeft]; omega⟩
    · exact .inl ⟨if_neg hn, by simp only [stepsLeft]; omega⟩
  | meterOut i side =>
    have hi : i < n := h
    cases side with
    | left => exact .inr ⟨.meterOut i .right, rfl, hi, by simp only [stepsLeft]; omega⟩
    | right =>
      by_cases hmore : i + 1 < n
      · exact .inr ⟨.meterOut (i + 1) .left, if_pos hmore, hmore, by simp only [stepsLeft]; omega⟩
      · exact .inl ⟨if_neg hmore, by simp only [stepsLeft]; omega⟩

theorem BlockStage.stepsLeft_pos (h : st.InRange n) : 0 < st.stepsLeft n := by
  rcases BlockStage.next_cases h with ⟨-, hleft⟩ | ⟨st', -, -, hleft⟩ <;> omega

/-- The first sub-step after S0 exists, and 4N + 1 sub-steps follow S0 (44 R211). -/
theorem firstStage_spec (n : Nat) : (firstStage n).InRange n ∧ (firstStage n).stepsLeft n = 4 * n + 1 := by
  unfold firstStage
  split
  case isTrue hn => exact ⟨hn, by simp only [BlockStage.stepsLeft]; omega⟩
  case isFalse hn => exact ⟨trivial, by simp only [BlockStage.stepsLeft]; omega⟩

variable {s t : State} {b : Block}

/-- A signal path that completes logs nothing. -/
theorem processBlock_faultLog (ht : s.processBlock b = .ok t) : t.faultLog = s.faultLog := by
  unfold State.processBlock at ht
  split at ht
  · obtain ⟨e, -, ht⟩ := bind_eq_ok ht
    cases ht; rfl
  · cases ht; rfl

/-- Everything a sub-step can do with the block and the log: the block moves on and nothing is logged, or S2 meets an
unwritten register and ends it (44 R211, log entry 14). -/
theorem audioSubStep_cases (b : Block) (s : State) :
    ((audioSubStep b s).block = (b.stage.next b.n).map (fun st => { b with stage := st }) ∧
      (audioSubStep b s).faultLog = s.faultLog) ∨
    ((audioSubStep b s).block = none ∧ ∃ c, s.processBlock b = .error c) := by
  cases hstage : b.stage with
  | meterIn i side => rw [audioSubStep_meterIn s hstage]; exact .inl ⟨rfl, rfl⟩
  | meterOut i side => rw [audioSubStep_meterOut s hstage]; exact .inl ⟨rfl, rfl⟩
  | process =>
    cases hpath : s.processBlock b with
    | ok t =>
      have hlog := processBlock_faultLog hpath
      rw [audioSubStep_process hstage hpath]; exact .inl ⟨rfl, hlog⟩
    | error c =>
      refine .inr ⟨?_, c, rfl⟩
      simp [audioSubStep, hstage, hpath]

/-- A block in progress cannot fault while the session's invariant holds (44 R211). -/
theorem audioSubStep_of_sessionOk (b : Block) (hs : s.sessionOk = true) :
    (audioSubStep b s).block = (b.stage.next b.n).map (fun st => { b with stage := st }) ∧
      (audioSubStep b s).faultLog = s.faultLog := by
  refine (audioSubStep_cases b s).resolve_right fun ⟨_, c, hc⟩ => ?_
  rcases Nat.eq_zero_or_pos s.len with hlen | hlen
  · rw [processBlock_of_unprepared b hlen] at hc; cases hc
  · obtain ⟨e, he⟩ := engine_of_sessionOk hs hlen
    rw [processBlock_of_engine b hlen he] at hc; cases hc

/-- A block in progress, if any, stands at a sub-step that exists (44 R211). -/
def State.StageExists (s : State) : Prop := ∀ b, s.block = some b → b.stage.InRange b.n

theorem stageExists_audioSubStep (hb : b.stage.InRange b.n) (s : State) : (audioSubStep b s).StageExists := by
  intro c hc
  rcases audioSubStep_cases b s with ⟨hnext, -⟩ | ⟨hends, -⟩
  · rcases BlockStage.next_cases hb with ⟨hlast, -⟩ | ⟨st, hst, hrange, -⟩
    · rw [hnext, hlast] at hc; cases hc
    · rw [hnext, hst] at hc; cases hc; exact hrange
  · rw [hends] at hc; cases hc

end Stages

section WholeBlock

/-- How many sub-steps the block in progress has left; none where there is no block. -/
def State.stepsLeft (s : State) : Nat := s.block.elim 0 fun b => b.stage.stepsLeft b.n

/-- P0 is carrying a block out in a good session, with `left` sub-steps still to do and nothing logged since `log`. -/
structure CarriesBlock (log : List LogEntry) (left : Nat) (s : State) : Prop where
  active : s.active = .p0
  session : s.sessionOk = true
  stage : s.StageExists
  left_eq : s.stepsLeft = left
  log_eq : s.faultLog = log

namespace CarriesBlock

variable {log : List LogEntry} {left k : Nat} {s : State}

theorem block_eq_none_iff (h : CarriesBlock log left s) : s.block = none ↔ left = 0 := by
  rw [← h.left_eq, State.stepsLeft]
  cases hb : s.block with
  | none => simp
  | some b => simpa using (BlockStage.stepsLeft_pos (h.stage b hb)).ne'

/-- Carried out once more, AUDIO_BLOCK does one of the sub-steps left. -/
theorem exec (h : CarriesBlock log (left + 1) s) : ∃ t, exec .audioBlock s = .next t ∧ CarriesBlock log left t := by
  obtain ⟨b, hb⟩ := Option.ne_none_iff_exists'.1 fun hnone => absurd (h.block_eq_none_iff.1 hnone) (Nat.succ_ne_zero _)
  have hleft : b.stage.stepsLeft b.n = left + 1 := by simpa [State.stepsLeft, hb] using h.left_eq
  obtain ⟨hnext, hlog⟩ := audioSubStep_of_sessionOk b h.session
  refine ⟨audioSubStep b s, exec_of_resumes h.active hb, (keeps_audioSubStep b s).act.trans h.active,
    sessionOk_isInvariant.audioSubStep b h.session, stageExists_audioSubStep (h.stage b hb) s, ?_, hlog.trans h.log_eq⟩
  rw [State.stepsLeft, hnext]
  rcases BlockStage.next_cases (h.stage b hb) with ⟨hlast, hone⟩ | ⟨st, hst, -, hfewer⟩
  · simp [hlast]; omega
  · simp [hst]; omega

/-- Carried out `k` times more, AUDIO_BLOCK does `k` of the sub-steps left. -/
theorem audioRun (h : CarriesBlock log left s) (hk : k ≤ left) : CarriesBlock log (left - k) (audioRun k s) := by
  induction k generalizing left s with
  | zero => exact h
  | succ k ih =>
    obtain ⟨left, rfl⟩ := Nat.exists_eq_add_of_le' (Nat.zero_lt_of_lt hk)
    obtain ⟨t, ht, hcarries⟩ := h.exec
    rw [Machine.audioRun, ht, Nat.add_sub_add_right]
    exact ih hcarries (Nat.le_of_succ_le_succ hk)

end CarriesBlock

/-- Settles O50: S0 leaves 4N + 1 sub-steps, and each one done leaves one fewer. -/
theorem audioBlockEndsAfterItsSubSteps : Obligations.AudioBlockEndsAfterItsSubSteps := by
  intro s a i haccepts hblock hsession hready hidx
  have hstart := exec_audioBlock_of_ready haccepts hblock hready hidx
  have hactive : s.active = .p0 := active_of_accepts haccepts rfl
  obtain ⟨t, ht, hcarries⟩ : ∃ t, exec .audioBlock s = .next t ∧ CarriesBlock s.faultLog (4 * a.n + 1) t := by
    refine ⟨_, hstart, hactive, sessionOk_isInvariant.exec hstart hsession, ?_, (firstStage_spec a.n).2, rfl⟩
    rintro b ⟨⟩
    exact (firstStage_spec a.n).1
  have hrun (k : Nat) : audioRun (k + 1) s = audioRun k t := by rw [audioRun, ht]
  have hends := hcarries.audioRun le_rfl
  refine ⟨?ends, fun k hk hle => ?goesOn, ?log⟩
  case ends => rw [hrun]; exact hends.block_eq_none_iff.2 (Nat.sub_self _)
  case goesOn =>
    obtain ⟨k, rfl⟩ := Nat.exists_eq_add_of_le' hk
    rw [hrun, Ne, (hcarries.audioRun (k := k) (by omega)).block_eq_none_iff]
    omega
  case log => rw [hrun]; exact hends.log_eq

end WholeBlock

section BlockInvariant

variable {i : Instr} {s t : State} {p : Port}

/-- Only AUDIO_BLOCK writes the block in progress (44 R211). -/
theorem commandBody_block (hi : i ≠ .audioBlock) (hu : commandBody i s = .ok t) : t.block = s.block := by
  refine commandBody_cases hu (·.block = s.block) ?prepare ?reset ?unprepared ?processStereo ?audioBlock ?fltSetcoef
    ?fltProcess ?fltReset ?resample ?rsReset ?dlyStep ?peakUpdate ?res0 ?didxWrite ?testctlWrite
  case audioBlock => exact fun _ _ h => absurd h hi
  all_goals intros; simp

theorem exec_block (hi : i ≠ .audioBlock) (h : exec i s = .next t) : t.block = s.block := by
  rw [exec_eq i s (not_resumes hi)] at h
  rcases runCommand_cases i s (commandBody i s) with ⟨h', -⟩ | ⟨h', -⟩ | ⟨-, u, hu, h'⟩ | ⟨-, c, -, h'⟩ <;>
    rw [h'] at h <;> cases h
  exacts [rfl, rfl, commandBody_block hi hu, rfl]

/-- AUDIO_BLOCK starts a block at a sub-step that exists, or moves one on to a sub-step that exists (44 R211). -/
theorem stageExists_exec_audioBlock (hs : s.StageExists) (h : exec .audioBlock s = .next t) : t.StageExists := by
  by_cases hr : s.resumes .audioBlock
  · obtain ⟨-, ha, hb⟩ := hr
    obtain ⟨b, hb⟩ := Option.isSome_iff_exists.1 hb
    rw [exec_of_resumes ha hb] at h
    cases h; exact stageExists_audioSubStep (hs b hb) s
  · rw [exec_eq _ s hr] at h
    rcases runCommand_cases .audioBlock s (commandBody .audioBlock s) with
        ⟨h', -⟩ | ⟨h', -⟩ | ⟨-, u, hu, h'⟩ | ⟨-, c, -, h'⟩ <;> rw [h'] at h <;> cases h
    · exact hs
    · exact hs
    · obtain ⟨a, -, hu⟩ := bind_eq_ok hu
      obtain ⟨idx, -, hu⟩ := bind_eq_ok hu
      cases hu
      rintro b ⟨⟩
      exact (firstStage_spec a.n).1
    · exact hs

theorem Block.stageOk_iff {b : Block} : b.stageOk = true ↔ b.stage.InRange b.n := by
  unfold Block.stageOk
  cases b.stage <;> simp [BlockStage.InRange]

/-- The invariant of a block in progress as a proposition: its command stands in CMD of P0, and its sub-step exists. -/
theorem State.blockOk_iff :
    s.blockOk = true ↔ (s.block ≠ none → s.p0.cmd = some (encode .audioBlock)) ∧ s.StageExists := by
  unfold State.blockOk State.StageExists
  cases s.block <;> simp [Block.stageOk_iff]

theorem State.blockOk_congr (hblock : t.block = s.block) (hcmd : t.p0.cmd = s.p0.cmd) (hs : s.blockOk = true) :
    t.blockOk = true := by
  rwa [State.blockOk, hblock, hcmd]

/-- A port's registers may be replaced, unless that takes AUDIO_BLOCK out of CMD of P0. -/
theorem blockOk_setPort {r : PortRegs} (hs : s.blockOk = true)
    (hr : p = .p0 → s.p0.cmd = some (encode .audioBlock) → r.cmd = s.p0.cmd) : (s.setPort p r).blockOk = true := by
  cases p with
  | p1 => exact hs
  | p0 =>
    obtain ⟨hcmd, hstage⟩ := State.blockOk_iff.1 hs
    exact State.blockOk_iff.2 ⟨fun hb => (hr rfl (hcmd hb)).trans (hcmd hb), hstage⟩

/-- A port may drop any command but AUDIO_BLOCK. -/
theorem blockOk_dropCommand {w : Word} (hs : s.blockOk = true) (hw : (s.port p).cmd = some w)
    (hd : decodeOn p w ≠ .ok .audioBlock) : (s.dropCommand p).blockOk = true := by
  refine blockOk_setPort hs ?_
  rintro rfl hcmd
  obtain rfl : w = encode .audioBlock := Option.some.inj (hw.symm.trans hcmd)
  exact absurd (decodeOn_p0_encode rfl) hd

/-- AUDIO_BLOCK runs on P0 alone, from its own word (30 R105, R112). -/
theorem eq_of_decodeOn_audioBlock {w : Word} (h : decodeOn p w = .ok .audioBlock) :
    p = .p0 ∧ w = encode .audioBlock := by
  unfold decodeOn at h
  split at h
  · cases h
  · next j hj =>
    split_ifs at h with haccepted
    cases h
    cases p with
    | p0 => exact ⟨rfl, (encode_of_decode hj).symm⟩
    | p1 => cases haccepted

@[simp] theorem retire_block (s : State) (p : Port) (i : Instr) : (s.retire p i).block = s.block := by
  unfold State.retire
  split <;> simp

/-- AUDIO_BLOCK stays in CMD of P0 while its block is in progress (44 R211, 70 R266). -/
theorem blockOk_retire_audioBlock (hcmd : s.p0.cmd = some (encode .audioBlock)) (hs : s.StageExists) :
    (s.retire .p0 .audioBlock).blockOk = true := by
  refine State.blockOk_iff.2 ⟨fun hb => ?_, fun b hb => hs b (by simpa using hb)⟩
  have hsome : s.block.isSome := by simpa [Option.isSome_iff_ne_none] using hb
  rw [State.retire, if_pos ⟨rfl, rfl, hsome⟩, hcmd]

theorem portStep_blockOk (h : portStep p s = .next t) (hs : s.blockOk = true) : t.blockOk = true := by
  rcases portStep_cases h with ⟨rfl, -⟩ | ⟨w, hw, hillegal, rfl⟩ | ⟨w, i, u, hw, hd, hu, rfl⟩
  · exact hs
  · exact blockOk_dropCommand (State.blockOk_congr (t := s.faultEntry p w .illegal) rfl rfl hs) (by cases p <;> exact hw)
      (hillegal _)
  · have hkeeps := exec_keeps hu
    by_cases hi : i = .audioBlock
    · subst hi
      obtain ⟨rfl, rfl⟩ := eq_of_decodeOn_audioBlock hd
      exact blockOk_retire_audioBlock (hkeeps.c0.trans hw)
        (stageExists_exec_audioBlock (s := { s with active := .p0 }) (State.blockOk_iff.1 hs).2 hu)
    · have hretire : u.retire p i = u.dropCommand p := if_neg fun hbusy => hi hbusy.1
      have hw' : (u.port p).cmd = some w := by
        cases p
        case p0 => exact hkeeps.c0.trans hw
        case p1 => exact hkeeps.c1.trans hw
      rw [hretire]
      refine blockOk_dropCommand (State.blockOk_congr (exec_block hi hu) hkeeps.c0 hs) hw' ?_
      rw [hd]
      exact fun heq => hi (Except.ok.inj heq)

/-- Settles O55: a port's step by `portStep_blockOk`; the host writes no CMD that holds a command, and a power cycle
ends the block. -/
theorem blockInProgressStaysLegal : Obligations.BlockInProgressStaysLegal := by
  intro s t hs h
  rcases step_cases h with ⟨p, s₀, hp, -, hs₀⟩ | ⟨p, k, v, -, -, rfl⟩ | ⟨p, w, -, hidle, rfl⟩ | rfl | ⟨a, b, rfl⟩ | ⟨-, rfl⟩
  · refine portStep_blockOk hp ?_
    rcases hs₀ with rfl | rfl | rfl <;> exact hs
  · exact blockOk_setPort (s := { s with inputs := s.inputs.tail }) hs fun hp _ => by subst hp; rfl
  · refine blockOk_setPort (s := { s with inputs := s.inputs.tail }) hs ?_
    rintro rfl hcmd
    exact absurd (hidle.symm.trans hcmd) nofun
  · exact hs
  · exact hs
  · rfl

end BlockInvariant

end Sys2Proof.Machine

/-! ## Exceptions: which words take ILLEGAL, how a command leaves STATUS and FAULT_LOG, what a dead session refuses, the
tests that end in UNINIT, MEMORY, PRECONDITION and ALLOC, what P1 reaches, and a power cycle (60 R230 to R249) -/

namespace Sys2Proof

section LegalWords

variable {w : Word} {p : Port} {i : Instr}

/-- A word decodes on a port exactly when it decodes and the port accepts its row (30 R112, R114). -/
theorem decodeOn_eq_ok : decodeOn p w = .ok i ↔ decode w = .ok i ∧ i.acceptedOn p = true := by
  unfold decodeOn
  cases hd : decode w with
  | error e => simp
  | ok j =>
    by_cases hj : j.acceptedOn p = true
    · simp only [if_pos hj, Except.ok.injEq]
      exact ⟨fun h => ⟨h, h ▸ hj⟩, And.left⟩
    · simp only [if_neg hj, Except.ok.injEq]
      exact ⟨nofun, fun ⟨h, hi⟩ => absurd (h ▸ hi) hj⟩

/-- The ranges a command's row admits: its OPC, its UNIT and MODE values and whether P1 accepts it (30 R105). -/
def Instr.legalRange (i : Instr) : Nat × Nat × Nat × Bool := (i.opc.toNat, i.unitCount, i.modeCount, i.onControlPort)

/-- The legal ranges are those of the commands' rows and no other (30 R105). -/
theorem legalRanges_eq : Machine.legalRanges = rowCommands.map Instr.legalRange := rfl

/-- An OPC of a row names a command of the same ranges, whatever UNIT and MODE are (30 R105). -/
theorem rowOf_legalRange (i : Instr) (u mode : BitVec 4) :
    ∃ j, rowOf i.opc u mode = some j ∧ j.legalRange = i.legalRange := by
  cases i <;> exact ⟨_, rfl, rfl⟩

/-- A word a port may receive decodes there (30 R111, R112). -/
theorem decodeOn_of_wordLegal (h : Machine.wordLegal p w = true) : ∃ i, decodeOn p w = .ok i := by
  obtain ⟨r, hr, hfields⟩ := List.any_eq_true.1 h
  rw [legalRanges_eq] at hr
  obtain ⟨i, -, rfl⟩ := List.mem_map.1 hr
  obtain ⟨j, hrow, hj⟩ := rowOf_legalRange i (unitField w) (modeField w)
  rw [← hj] at hfields
  simp only [Instr.legalRange, Bool.and_eq_true, Bool.or_eq_true, beq_iff_eq] at hfields
  obtain ⟨⟨⟨⟨hopc, hrsvd⟩, hunit⟩, hmode⟩, hport⟩ := hfields
  have hopc' : opcField w = i.opc := by
    rw [← BitVec.eq_of_toNat_eq hopc]
    exact (opc_of_rowOf hrow).symm
  have hdecode := decode_of_rowOf (hopc' ▸ hrow) hrsvd (of_decide_eq_true hunit) (of_decide_eq_true hmode)
  refine ⟨j, decodeOn_eq_ok.2 ⟨hdecode, ?_⟩⟩
  cases p with
  | p0 => rfl
  | p1 => exact hport.resolve_left nofun

/-- Settles O5: a word a port may receive decodes there and no other does; one that does not decode is ILLEGAL. -/
theorem illegalWordTakesFault : Obligations.IllegalWordTakesFault := by
  refine ⟨fun p w => ⟨fun ⟨i, hi⟩ => Machine.wordLegal_of_decodeOn hi, decodeOn_of_wordLegal⟩, fun s p w hw h => ?_⟩
  cases hd : decodeOn p w with
  | error e => exact Machine.portStep_of_illegal hw hd
  | ok i => exact absurd (Machine.wordLegal_of_decodeOn hd) (Bool.eq_false_iff.1 h)

end LegalWords

end Sys2Proof

namespace Sys2Proof.Machine

section Record

variable {i : Instr} {s t u : State}

/-- Settles O10: carried on or run in the shared order of tests, a command answers a next state. -/
theorem execAlwaysAnswersNext : Obligations.ExecAlwaysAnswersNext := exec_answers_next

/-- Everything a command can do: carry a block on, take a fault, be refused, or have its effect. Only an accepted
PREPARE takes ALLOC (60 R237 to R240). -/
theorem exec_cases (h : exec i s = .next t) :
    (∃ b, i = .audioBlock ∧ s.active = .p0 ∧ s.block = some b ∧ t = audioSubStep b s) ∨
    (∃ c, t = s.faultEntry s.active (encode i) c ∧ (c = .alloc → s.accepts .prepare)) ∨
    (s.active = .p0 ∧ t = s.refuse (encode i)) ∨
    (s.accepts i ∧ commandBody i s = .ok t) := by
  by_cases hr : s.resumes i
  · obtain ⟨rfl, hactive, hsome⟩ := hr
    obtain ⟨b, hb⟩ := Option.isSome_iff_exists.1 hsome
    rw [exec_of_resumes hactive hb] at h
    cases h; exact .inl ⟨b, rfl, hactive, hb, rfl⟩
  · rw [exec_eq i s hr] at h
    rcases runCommand_cases i s (commandBody i s) with
        ⟨h', -⟩ | ⟨h', hactive, -⟩ | ⟨haccepts, u, hu, h'⟩ | ⟨haccepts, c, hc, h'⟩ <;> rw [h'] at h <;> cases h
    · exact .inr (.inl ⟨.illegal, rfl, nofun⟩)
    · exact .inr (.inr (.inl ⟨hactive, rfl⟩))
    · exact .inr (.inr (.inr ⟨haccepts, hu⟩))
    · refine .inr (.inl ⟨c, rfl, fun halloc => ?_⟩)
      have hi : i = .prepare := by_contra fun hi => NoAlloc.commandBody s hi (halloc ▸ hc)
      exact hi ▸ haccepts

/-- No command's own effect writes FAULT_LOG (60 R239). -/
theorem commandBody_faultLog (hu : commandBody i s = .ok u) : u.faultLog = s.faultLog := by
  refine commandBody_cases hu (·.faultLog = s.faultLog) ?prepare ?reset ?unprepared ?processStereo ?audioBlock
    ?fltSetcoef ?fltProcess ?fltReset ?resample ?rsReset ?dlyStep ?peakUpdate ?res0 ?didxWrite ?testctlWrite
  all_goals intros; simp

/-- Of the commands' own effects only PREPARE's writes FAULT (42 R179, 60 R240). -/
theorem commandBody_fault (hi : i ≠ .prepare) (hu : commandBody i s = .ok u) : u.fault = s.fault := by
  refine commandBody_cases hu (·.fault = s.fault) ?prepare ?reset ?unprepared ?processStereo ?audioBlock
    ?fltSetcoef ?fltProcess ?fltReset ?resample ?rsReset ?dlyStep ?peakUpdate ?res0 ?didxWrite ?testctlWrite
  case prepare => exact fun _ _ h => absurd h hi
  all_goals intros; simp

/-- Settles O11: a sub-step of a good session and a command's own effect log nothing, which leaves a fault's entry and a
refusal's. -/
theorem faultsArePrecise : Obligations.FaultsArePrecise := by
  intro i s t hs h hlog
  rcases exec_cases h with ⟨b, -, -, -, rfl⟩ | ⟨c, rfl, -⟩ | ⟨-, rfl⟩ | ⟨-, hbody⟩
  · exact absurd (audioSubStep_of_sessionOk b hs).2 hlog
  · exact .inl ⟨c, rfl⟩
  · exact .inr rfl
  · exact absurd (commandBody_faultLog hbody) hlog

/-- FAULT_LOG loses no entry, and FAULT is cleared only where `excuse` holds (60 R238, R240). -/
structure KeepsRecord (excuse : Prop) (s t : State) : Prop where
  log : ∃ l, t.faultLog = s.faultLog ++ l
  fault : s.fault ≠ none → t.fault = none → excuse

namespace KeepsRecord

variable {excuse : Prop}

theorem of_same (hfault : t.fault = s.fault) (hlog : t.faultLog = s.faultLog) : KeepsRecord excuse s t :=
  ⟨⟨[], by rw [hlog, List.append_nil]⟩, fun hs ht => absurd (hfault.symm.trans ht) hs⟩

theorem faultEntry (s : State) (p : Port) (w : Word) (c : Cause) : KeepsRecord excuse s (s.faultEntry p w c) :=
  ⟨⟨_, rfl⟩, fun _ => nofun⟩

theorem refuse (s : State) (w : Word) : KeepsRecord excuse s (s.refuse w) :=
  ⟨⟨_, rfl⟩, fun hs ht => absurd ht hs⟩

/-- What leaves FAULT and FAULT_LOG alone may come before and after. -/
theorem congr {s' t' : State} (h : KeepsRecord excuse s t) (hfault : s'.fault = s.fault)
    (hlog : s'.faultLog = s.faultLog) (hfault' : t'.fault = t.fault) (hlog' : t'.faultLog = t.faultLog) :
    KeepsRecord excuse s' t' := by
  obtain ⟨log, fault⟩ := h
  exact ⟨by rwa [hlog, hlog'], by rwa [hfault, hfault']⟩

theorem imp {excuse' : Prop} (h : KeepsRecord excuse s t) (himp : excuse → excuse') : KeepsRecord excuse' s t :=
  ⟨h.log, fun hs ht => himp (h.fault hs ht)⟩

end KeepsRecord

/-- A signal path that completes leaves FAULT alone. -/
theorem processBlock_fault {b : Block} (ht : s.processBlock b = .ok t) : t.fault = s.fault := by
  unfold State.processBlock at ht
  split at ht
  · obtain ⟨e, -, ht⟩ := bind_eq_ok ht
    cases ht; rfl
  · cases ht; rfl

theorem audioSubStep_keepsRecord {excuse : Prop} (b : Block) (s : State) :
    KeepsRecord excuse s (audioSubStep b s) := by
  cases hstage : b.stage with
  | meterIn i side => rw [audioSubStep_meterIn s hstage]; exact .of_same rfl rfl
  | meterOut i side => rw [audioSubStep_meterOut s hstage]; exact .of_same rfl rfl
  | process =>
    cases hpath : s.processBlock b with
    | ok t =>
      rw [audioSubStep_process hstage hpath]
      have hfault := processBlock_fault hpath
      have hlog := processBlock_faultLog hpath
      exact .of_same hfault hlog
    | error c =>
      have hends : audioSubStep b s = (s.faultEntry s.active (encode .audioBlock) c).advanceBlock b none := by
        simp only [audioSubStep, hstage, hpath]
      rw [hends]
      exact (KeepsRecord.faultEntry s s.active (encode .audioBlock) c).congr rfl rfl rfl rfl

/-- A command keeps the record, but for PREPARE, which clears FAULT (60 R238, R240). -/
theorem exec_keepsRecord (h : exec i s = .next t) : KeepsRecord (i = .prepare) s t := by
  rcases exec_cases h with ⟨b, -, -, -, rfl⟩ | ⟨c, rfl, -⟩ | ⟨-, rfl⟩ | ⟨-, hbody⟩
  · exact audioSubStep_keepsRecord b s
  · exact .faultEntry ..
  · exact .refuse ..
  · have hlog := commandBody_faultLog hbody
    by_cases hi : i = .prepare
    · exact ⟨⟨[], by rw [hlog, List.append_nil]⟩, fun _ _ => hi⟩
    · exact .of_same (commandBody_fault hi hbody) hlog

/-- PREPARE runs on P0 alone, from its own word (30 R105, R112). -/
theorem eq_of_decodeOn_prepare {p : Port} {w : Word} (h : decodeOn p w = .ok .prepare) :
    p = .p0 ∧ w = encode .prepare := by
  obtain ⟨hdecode, haccepted⟩ := decodeOn_eq_ok.1 h
  cases p with
  | p0 => exact ⟨rfl, (encode_of_decode hdecode).symm⟩
  | p1 => cases haccepted

/-- A step of a port keeps the record, but where PREPARE stands in CMD of P0 (60 R240). -/
theorem portStep_keepsRecord {p : Port} (h : portStep p s = .next t) :
    KeepsRecord (s.p0.cmd = some (encode .prepare)) s t := by
  rcases portStep_cases h with ⟨rfl, -⟩ | ⟨w, -, -, rfl⟩ | ⟨w, i, u, hw, hd, hu, rfl⟩
  · exact .of_same rfl rfl
  · exact (KeepsRecord.faultEntry s p w .illegal).congr rfl rfl (State.setPort_fault _ _ _)
      (State.setPort_faultLog _ _ _)
  · have retired : SameUnits u (u.retire p i) := sameUnits_retire u p i
    have logged : (u.retire p i).faultLog = u.faultLog := by unfold State.retire; split <;> simp
    refine ((exec_keepsRecord hu).congr (s' := s) rfl rfl retired.fault logged).imp ?_
    rintro rfl
    obtain ⟨rfl, rfl⟩ := eq_of_decodeOn_prepare hd
    exact hw

/-- Every step but a power cycle keeps the record, but where PREPARE stands in CMD of P0 (60 R238, R240). -/
theorem step_keepsRecord (hcycle : s.inputs.head? ≠ some .powerCycle) (h : step s = .next t) :
    KeepsRecord (s.p0.cmd = some (encode .prepare)) s t := by
  rcases step_cases h with ⟨p, s₀, hp, -, hs₀⟩ | ⟨p, k, v, -, -, rfl⟩ | ⟨p, w, -, -, rfl⟩ | rfl | ⟨a, b, rfl⟩ |
    ⟨hinputs, -⟩
  · have hport := portStep_keepsRecord hp
    rcases hs₀ with rfl | rfl | rfl <;> exact hport.congr rfl rfl rfl rfl
  · exact .of_same (State.setPort_fault _ _ _) (State.setPort_faultLog _ _ _)
  · exact .of_same (State.setPort_fault _ _ _) (State.setPort_faultLog _ _ _)
  · exact .of_same rfl rfl
  · exact .of_same rfl rfl
  · exact absurd (by rw [hinputs]; rfl) hcycle

/-- Settles O13: FAULT is part of the record every step keeps. -/
theorem onlyPrepareEndsDeadSession : Obligations.OnlyPrepareEndsDeadSession :=
  fun _ _ hcycle h => (step_keepsRecord hcycle h).fault

/-- Settles O12: FAULT_LOG is part of the record every step keeps; the codes by cause. -/
theorem faultLogOnlyGrows : Obligations.FaultLogOnlyGrows := by
  refine ⟨fun s t hcycle h => (step_keepsRecord hcycle h).log, fun s p w c => ⟨rfl, ?_⟩⟩
  cases c <;> rfl

end Record

section DeadSession

variable {i : Instr} {s : State}

/-- PREPARE and STATUS_READ alone are served in a dead session (60 R240). -/
theorem servesDeadSession_iff : i.servesDeadSession = true ↔ i = .prepare ∨ i = .statusRead := by
  cases i <;> simp [Instr.servesDeadSession]

/-- Settles O14: a command that starts anew meets the refusal right after the test of its word. -/
theorem deadSessionRefuses : Obligations.DeadSessionRefuses := by
  intro i s hwf hactive hfault hprepare hstatus hstarts
  have hserves : i.servesDeadSession = false :=
    Bool.eq_false_iff.2 fun h => (servesDeadSession_iff.1 h).elim hprepare hstatus
  rw [exec_eq i s fun ⟨hi, _, hblock⟩ => hstarts ⟨hi, hblock⟩]
  exact runCommand_of_dead hwf hactive hfault hserves _

end DeadSession

section ControlPortReach

variable {i : Instr} {s t : State}

/-- The two states differ in nothing but RES0 of P1, STATUS, DELAY_INDEX and FAULT_LOG (60 R247). -/
def DiffersInShared (s t : State) : Prop :=
  t = { s with p1 := { s.p1 with res0 := t.p1.res0 }, fault := t.fault, delayIndex := t.delayIndex,
               faultLog := t.faultLog }

theorem differsInShared_faultEntry (s : State) (p : Port) (w : Word) {c : Cause} (hc : c ≠ .alloc) :
    DiffersInShared s (s.faultEntry p w c) := by
  simp [DiffersInShared, State.faultEntry, hc]

theorem differsInShared_setRes0 (hactive : s.active = .p1) (v : Reg64) : DiffersInShared s (s.setRes0 v) := by
  simp [DiffersInShared, State.setRes0, State.setPort, State.port, hactive]

/-- The own effect of a command P1 accepts writes RES0 or DELAY_INDEX (60 R247). -/
theorem commandBody_differsInShared (hactive : s.active = .p1) (hi : i.onControlPort = true)
    (hu : commandBody i s = .ok t) : DiffersInShared s t := by
  rcases onControlPort_iff.1 hi with ⟨u, rfl⟩ | rfl | rfl | rfl
  · cases hu; exact differsInShared_setRes0 hactive _
  · obtain ⟨v, -, hu⟩ := bind_eq_ok hu
    split at hu
    · cases hu
    · cases hu; rfl
  · obtain ⟨idx, -, hu⟩ := bind_eq_ok hu
    cases hu; exact differsInShared_setRes0 hactive _
  · cases hu; exact differsInShared_setRes0 hactive _

/-- Settles O51: on P1 no block is carried on and ALLOC is not taken; a fault and the accepted effects by the lemmas
above. -/
theorem controlPortReachesOnlySharedState : Obligations.ControlPortReachesOnlySharedState := by
  intro i s t hactive h
  have notP0 : s.active ≠ .p0 := by rw [hactive]; nofun
  rcases exec_cases h with ⟨b, -, hp0, -⟩ | ⟨c, rfl, halloc⟩ | ⟨hp0, -⟩ | ⟨⟨-, haccepted, -⟩, hbody⟩
  · exact absurd hp0 notP0
  · exact differsInShared_faultEntry s _ _ fun hc => notP0 (active_of_accepts (halloc hc) rfl)
  · exact absurd hp0 notP0
  · rw [hactive] at haccepted
    exact commandBody_differsInShared hactive haccepted hbody

end ControlPortReach

section PowerCycle

/-- A power cycle leaves both ports with no register written (70 R260). -/
theorem powerCycle_port (s : State) (p : Port) : s.powerCycle.port p = PortRegs.unwritten := powerOn_port s.params p

/-- Settles O58: the registers are those of `State.powerOn`, field by field. -/
theorem powerCycleRestoresPowerOn : Obligations.PowerCycleRestoresPowerOn := by
  intro s rest h
  refine ⟨({ s with inputs := rest } : State).powerCycle, ?step, rfl, rfl, rfl, powerOn_filters s.params,
    powerOn_resamplers s.params, fun _ => rfl, rfl, rfl, powerOn_statusWord s.params,
    fun p k => ?args, fun p => ?port, rfl, rfl, rfl, rfl, rfl, rfl⟩
  case step => simp [step, machineStep, h, hostStep]
  case args => rw [powerCycle_port]; exact unwritten_args k
  case port => rw [powerCycle_port]; exact ⟨rfl, rfl, rfl⟩

end PowerCycle

end Sys2Proof.Machine

/-! ## Exceptions: the tests of a command's own that end in UNINIT, MEMORY, PRECONDITION or ALLOC (60 R232 to R237) -/

namespace Sys2Proof.Machine

section FailingTests

variable {i : Instr} {s : State} {c : Cause}

/-- An accepted command that carries no block on takes the fault its own tests end with (60 R237, R238). -/
theorem exec_of_commandBody_error (hstarts : ¬ s.resumes i) (haccepts : s.accepts i)
    (hbody : commandBody i s = .error c) : exec i s = .next (s.faultEntry s.active (encode i) c) := by
  rw [exec_of_accepts hstarts haccepts, hbody, settle]

/-- Without a block in progress nothing is carried on. -/
theorem not_resumes_of_no_block (hblock : s.block = none) : ¬ s.resumes i :=
  fun ⟨_, _, hsome⟩ => by simp [hblock] at hsome

end FailingTests

section UnwrittenRegisters

variable {s : State} {u : BitVec 4}

/-- A filter unit with an unwritten register reads as UNINIT (40 R133). -/
theorem FilterUnit.regs_of_not_isWritten {f : FilterUnit} (h : f.isWritten = false) : f.regs = .error .uninit := by
  obtain ⟨a, kind, yPrev, xPrev⟩ := f
  rcases a with _ | a
  · rfl
  rcases kind with _ | kind
  · rfl
  rcases yPrev with _ | yPrev
  · rfl
  rcases xPrev with _ | xPrev
  · rfl
  cases h

/-- A resampler unit with an unwritten register reads as UNINIT (41 R153). -/
theorem ResamplerUnit.regs_of_not_isWritten {r : ResamplerUnit} (h : r.isWritten = false) :
    r.regs = .error .uninit := by
  obtain ⟨phase, last⟩ := r
  rcases phase with _ | phase
  · rfl
  rcases last with _ | last
  · rfl
  cases h

theorem fltProcess_of_unwritten {v : Reg64} (harg : s.argIs 0 v) (hunit : s.filters[filterIx u].isWritten = false) :
    fltProcess u s = .error .uninit := by
  rw [fltProcess, argF32_of_argIs harg, FilterUnit.regs_of_not_isWritten hunit]
  rfl

theorem rsDownsample_of_unwritten {a : ResampleArgs} {x y : F64} (hready : s.resampleReady a x y)
    (hunit : s.resamplers[resamplerIx u].isWritten = false) : rsDownsample u s = .error .uninit := by
  rw [rsDownsample, resampleArgs_of_ready hready, ResamplerUnit.regs_of_not_isWritten hunit]
  rfl

theorem rsUpsample_of_unwritten {a : ResampleArgs} {x y : F64} (hready : s.resampleReady a x y)
    (hunit : s.resamplers[resamplerIx u].isWritten = false) : rsUpsample u s = .error .uninit := by
  rw [rsUpsample, resampleArgs_of_ready hready, ResamplerUnit.regs_of_not_isWritten hunit]
  rfl

theorem dlyStep_of_unprepared {x y d : Reg64} (hx : s.argIs 0 x) (hy : s.argIs 1 y) (hd : s.argIs 2 d)
    (hlen : s.len = 0) : dlyStep s = .error .uninit := by
  rw [dlyStep, argF32_of_argIs hx, argF32_of_argIs hy, argI32_of_argIs hd]
  exact if_pos hlen

theorem audioStart_of_unwritten {a : StereoArrays} (hready : s.stereoReady a) (hidx : s.delayIndex = none) :
    audioStart s = .error .uninit := by
  rw [audioStart, stereoArgs_of_ready hready, hidx]
  rfl

theorem didxRead_of_unwritten (hidx : s.delayIndex = none) : didxRead s = .error .uninit := by
  rw [didxRead, hidx]
  rfl

/-- Settles O16: in each command the operands pass and the read of the register ends with UNINIT. -/
theorem unwrittenStateTakesUninit : Obligations.UnwrittenStateTakesUninit :=
  ⟨fun _ _ _ haccepts harg hunit =>
     exec_of_commandBody_error (not_resumes nofun) haccepts (fltProcess_of_unwritten harg hunit),
   fun _ _ _ _ _ haccepts hready hunit =>
     exec_of_commandBody_error (not_resumes nofun) haccepts (rsDownsample_of_unwritten hready hunit),
   fun _ _ _ _ _ haccepts hready hunit =>
     exec_of_commandBody_error (not_resumes nofun) haccepts (rsUpsample_of_unwritten hready hunit),
   fun _ _ _ _ haccepts hx hy hd hlen =>
     exec_of_commandBody_error (not_resumes nofun) haccepts (dlyStep_of_unprepared hx hy hd hlen),
   fun _ _ haccepts hblock hready hidx =>
     exec_of_commandBody_error (not_resumes_of_no_block hblock) haccepts (audioStart_of_unwritten hready hidx),
   fun _ haccepts hidx => exec_of_commandBody_error (not_resumes nofun) haccepts (didxRead_of_unwritten hidx)⟩

end UnwrittenRegisters

section ScalarOperands

variable {s : State}

theorem prepare_of_outOfRange {fs m : Reg64} (hfs : s.argIs 0 fs) (hm : s.argIs 1 m)
    (hbad : isFinite64 fs = false ∨ gt64 fs minHostRate = false ∨ (lowHalf m).toInt < 1) :
    prepare s = .error .precondition := by
  rw [prepare, argF64_of_argIs hfs, argI32_of_argIs hm]
  rcases hbad with hfinite | habove | hpos
  · exact if_pos (by simp [hfinite])
  · exact if_pos (by simp [habove])
  · exact ite_eq_left_iff.2 fun _ => if_pos hpos

/-- PREPARE with operands in range and buffers that do not fit (42 R179, 60 R232). -/
theorem prepare_of_overflow {fs m : Reg64} (hfs : s.argIs 0 fs) (hm : s.argIs 1 m) (hfinite : isFinite64 fs = true)
    (habove : gt64 fs minHostRate = true) (hpos : 1 ≤ (lowHalf m).toInt)
    (hexceeds : (s.params.delayRamWords : Int) < 24 * (lowHalf m).toInt) : prepare s = .error .alloc := by
  have hlen := bufferLength_eq hpos
  have hnotBelow : ¬ (lowHalf m).toInt < 1 := by omega
  have hroom : s.params.delayRamWords < bufferLength (lowHalf m).toInt := by omega
  simp [prepare, argF64_of_argIs hfs, argI32_of_argIs hm, hfinite, habove, hnotBelow, hroom, Bind.bind, Except.bind]

theorem fltSetcoef_of_not_coefDomain {fs fc : F64} (u : BitVec 4) (k : FilterType) (hfs : s.argIs 0 fs)
    (hfc : s.argIs 1 fc) (hdomain : coefDomain fs fc = false) : fltSetcoef u k s = .error .precondition := by
  rw [fltSetcoef, argF64_of_argIs hfs, argF64_of_argIs hfc]
  exact if_pos (by rw [hdomain]; rfl)

/-- Only 0 to 5 name a delay index (44 R212). -/
theorem delayIndexOf_eq_none {v : Int} (h : v < 0 ∨ 5 < v) : delayIndexOf v = none := if_neg (by omega)

theorem didxWrite_of_outOfRange {v : Reg64} (harg : s.argIs 0 v)
    (hbad : (lowHalf v).toInt < 0 ∨ 5 < (lowHalf v).toInt) : didxWrite s = .error .precondition := by
  simp only [didxWrite, argI32_of_argIs harg, delayIndexOf_eq_none hbad, Bind.bind, Except.bind]

/-- A value above 1 has one of the bits 31:1 set (10 R37). -/
theorem reservedBits_ne_zero {v : BitVec 32} (h : 1 < v.toNat) : v.extractLsb' 1 31 ≠ 0#31 := by
  intro hzero
  have hnat := congrArg BitVec.toNat hzero
  simp only [BitVec.extractLsb'_toNat, Nat.shiftRight_eq_div_pow, BitVec.toNat_ofNat] at hnat
  omega

theorem testctlWrite_of_reserved {v : Reg64} (harg : s.argIs 0 v) (hv : 1 < (lowHalf v).toNat) :
    testctlWrite s = .error .precondition := by
  rw [testctlWrite, argF32_of_argIs harg]
  exact if_pos (reservedBits_ne_zero hv)

/-- Settles O18: each condition fails the command's own test of its operands. -/
theorem scalarOperandPreconditions : Obligations.ScalarOperandPreconditions := by
  refine ⟨fun s fs m haccepts hfs hm hbad =>
      exec_of_commandBody_error (not_resumes nofun) haccepts (prepare_of_outOfRange hfs hm hbad),
    fun s u k fs fc haccepts hfs hfc hbad => ?setcoef,
    fun s v haccepts harg hbad =>
      exec_of_commandBody_error (not_resumes nofun) haccepts (didxWrite_of_outOfRange harg hbad),
    fun s v haccepts harg hv =>
      exec_of_commandBody_error (not_resumes nofun) haccepts (testctlWrite_of_reserved harg hv)⟩
  case setcoef =>
    have hdomain : coefDomain fs fc = false := by
      rcases hbad with hbad | hbad | hbad | hbad | hbad <;> simp [coefDomain, two64, hbad]
    exact exec_of_commandBody_error (not_resumes nofun) haccepts (fltSetcoef_of_not_coefDomain u k hfs hfc hdomain)

/-- Settles O20: PREPARE's last test fails, and ALLOC is the fault that sets LEN to 0. -/
theorem allocFaultEndsSession : Obligations.AllocFaultEndsSession :=
  fun _ _ _ haccepts hfs hm hfinite habove hpos hexceeds =>
    exec_of_commandBody_error (not_resumes nofun) haccepts (prepare_of_overflow hfs hm hfinite habove hpos hexceeds)

end ScalarOperands

section ArrayTests

variable {base n : Nat}

/-- When `MemCheck` passes: an aligned array that is empty or ends inside host memory (20 R74, R75). -/
theorem memCheck_eq_ok_iff : memCheck base n = .ok () ↔ base % 4 = 0 ∧ (n = 0 ∨ base + 4 * n ≤ 2 ^ 64) := by
  unfold memCheck hostBytes
  split_ifs with halign hrange
  · exact ⟨nofun, fun ⟨h, _⟩ => absurd h halign⟩
  · exact ⟨nofun, fun ⟨_, h⟩ => by omega⟩
  · exact ⟨fun _ => by omega, fun _ => rfl⟩

/-- Two arrays overlap exactly when a byte belongs to both (20 R79). -/
theorem overlap_eq_true_iff {a n b m : Nat} :
    overlap a n b m = true ↔ ∃ x, (a ≤ x ∧ x < a + 4 * n) ∧ b ≤ x ∧ x < b + 4 * m := by
  rw [overlap, decide_eq_true_eq]
  exact ⟨fun h => ⟨max a b, by omega⟩, fun ⟨x, h⟩ => by omega⟩

/-- Arrays of any two sizes do not overlap when one is empty or one ends before the other (20 R79). -/
theorem overlap_eq_false_iff {a n b m : Nat} :
    overlap a n b m = false ↔ n = 0 ∨ m = 0 ∨ a + 4 * n ≤ b ∨ b + 4 * m ≤ a := by
  rw [overlap, decide_eq_false_iff_not]
  omega

/-- Tests that go on after `MemCheck` end with MEMORY when it fails or they do (60 R234). -/
theorem memCheck_bind_eq_memory {α : Type} {f : Unit → Except Cause α}
    (h : memCheck base n = .ok () → f () = .error .memory) : (memCheck base n >>= f) = .error .memory := by
  rcases memCheck_cases (b := base) (n := n) with hm | hm
  · rw [hm]; exact h hm
  · rw [hm]; rfl

end ArrayTests

section StereoTests

/-- The overlap rules of 20 R79 (a), pair by pair. -/
theorem StereoArrays.disjoint_iff {a : StereoArrays} :
    a.disjoint = true ↔ overlap a.outL a.n a.outR a.n = false ∧ overlap a.outL a.n a.inR a.n = false ∧
      overlap a.outR a.n a.inL a.n = false ∧ (a.inL = a.outL ∨ overlap a.inL a.n a.outL a.n = false) ∧
      (a.inR = a.outR ∨ overlap a.inR a.n a.outR a.n = false) := by
  simp [StereoArrays.disjoint, and_assoc]

variable {inL inR outL outR : Nat} {count : Int}

/-- `StereoCheck` raises MEMORY when an array fails its check or two overlap that may not (42 R180, 60 R234). -/
theorem stereoCheck_eq_memory
    (h : (∃ base ∈ [inL, inR, outL, outR], memCheck base count.toNat = .error .memory) ∨
      StereoArrays.disjoint { inL := inL, inR := inR, outL := outL, outR := outR, n := count.toNat } = false) :
    stereoCheck inL inR outL outR count = .error .memory := by
  refine memCheck_bind_eq_memory fun h0 => memCheck_bind_eq_memory fun h1 => memCheck_bind_eq_memory fun h2 =>
    memCheck_bind_eq_memory fun h3 => if_pos ?_
  rw [h.resolve_left (by simp [h0, h1, h2, h3])]
  rfl

/-- `StereoCheck` raises PRECONDITION on a negative count when the arrays are aligned: they are then empty, and no two
overlap (60 R235). -/
theorem stereoCheck_eq_precondition (haligned : ∀ base ∈ [inL, inR, outL, outR], base % 4 = 0) (hneg : count < 0) :
    stereoCheck inL inR outL outR count = .error .precondition := by
  have hzero : count.toNat = 0 := Int.toNat_of_nonpos hneg.le
  have hpasses : ∀ base ∈ [inL, inR, outL, outR], memCheck base 0 = .ok () :=
    fun base hbase => memCheck_eq_ok_iff.2 ⟨haligned base hbase, .inl rfl⟩
  simp only [List.forall_mem_cons] at hpasses
  obtain ⟨h0, h1, h2, h3, -⟩ := hpasses
  have hempty (a b : Nat) : overlap a 0 b 0 = false := overlap_eq_false.2 (.inl rfl)
  simp [stereoCheck, hzero, h0, h1, h2, h3, StereoArrays.disjoint_iff, hempty, hneg, Bind.bind, Except.bind]

variable {i : Instr} {s : State} {v0 v1 v2 v3 v4 v5 : Reg64} {c : Cause}

/-- With their ARGs written, the array operands are what `StereoCheck` makes of them (42 R180). -/
theorem stereoArgs_of_argIs (h0 : s.argIs 0 v0) (h1 : s.argIs 1 v1) (h2 : s.argIs 2 v2) (h3 : s.argIs 3 v3)
    (h4 : s.argIs 4 v4) :
    s.stereoArgs = stereoCheck v0.toNat v1.toNat v2.toNat v3.toNat (lowHalf v4).toInt := by
  rw [State.stereoArgs, argAddr_of_argIs h0, argAddr_of_argIs h1, argAddr_of_argIs h2, argAddr_of_argIs h3,
    argI32_of_argIs h4]
  rfl

/-- PROCESS_STEREO while prepared and the start of AUDIO_BLOCK take the fault their array operands raise. -/
theorem exec_of_stereoArgs_error (hi : (i = .processStereo ∧ 0 < s.len) ∨ (i = .audioBlock ∧ s.block = none))
    (haccepts : s.accepts i) (h5 : i = .processStereo → s.argIs 5 v5) (herror : s.stereoArgs = .error c) :
    exec i s = .next (s.faultEntry s.active (encode i) c) := by
  rcases hi with ⟨rfl, hlen⟩ | ⟨rfl, hblock⟩
  · refine exec_of_commandBody_error (not_resumes nofun) haccepts ?_
    rw [commandBody, processStereo, if_neg hlen.ne', argI32_of_argIs (h5 rfl), herror]
    rfl
  · refine exec_of_commandBody_error (not_resumes_of_no_block hblock) haccepts ?_
    rw [commandBody, audioStart, herror]
    rfl

/-- What 60 R234 forbids of four arrays of `n` elements makes their check raise MEMORY. -/
theorem stereoCheck_of_forbidden {n : Nat} (hn : n = count.toNat)
    (h : (∃ v ∈ [v0, v1, v2, v3], v.toNat % 4 ≠ 0 ∨ (0 < n ∧ 2 ^ 64 - 1 < v.toNat + 4 * n - 1)) ∨
      overlap v2.toNat n v3.toNat n = true ∨ overlap v2.toNat n v1.toNat n = true ∨
      overlap v3.toNat n v0.toNat n = true ∨
      (v0 ≠ v2 ∧ overlap v0.toNat n v2.toNat n = true) ∨ (v1 ≠ v3 ∧ overlap v1.toNat n v3.toNat n = true)) :
    stereoCheck v0.toNat v1.toNat v2.toNat v3.toNat count = .error .memory := by
  subst hn
  refine stereoCheck_eq_memory ?_
  rcases h with ⟨v, hv, hbad⟩ | hoverlap
  · exact .inl ⟨v.toNat, List.mem_map_of_mem (f := BitVec.toNat) hv, memCheck_eq_memory hbad⟩
  · refine .inr (Bool.eq_false_iff.2 fun hdisjoint => ?_)
    obtain ⟨hout, hcrossL, hcrossR, hleft, hright⟩ := StereoArrays.disjoint_iff.1 hdisjoint
    rcases hoverlap with h | h | h | ⟨hne, h⟩ | ⟨hne, h⟩
    · exact Bool.false_ne_true (hout.symm.trans h)
    · exact Bool.false_ne_true (hcrossL.symm.trans h)
    · exact Bool.false_ne_true (hcrossR.symm.trans h)
    · exact Bool.false_ne_true ((hleft.resolve_left (mt BitVec.eq_of_toNat_eq hne)).symm.trans h)
    · exact Bool.false_ne_true ((hright.resolve_left (mt BitVec.eq_of_toNat_eq hne)).symm.trans h)

/-- Arrays in order of which only an input and its own output share bytes, and those in place, are good operands
(20 R79 (a)). -/
theorem stereoReady_of_argIs {n : Nat} (h0 : s.argIs 0 v0) (h1 : s.argIs 1 v1) (h2 : s.argIs 2 v2) (h3 : s.argIs 3 v3)
    (h4 : s.argIs 4 v4) (hn : (lowHalf v4).toInt = (n : Int))
    (hpasses : ∀ v ∈ [v0, v1, v2, v3], memCheck v.toNat n = .ok ())
    (hout : overlap v2.toNat n v3.toNat n = false) (hcrossL : overlap v2.toNat n v1.toNat n = false)
    (hcrossR : overlap v3.toNat n v0.toNat n = false) (hleft : v0 = v2 ∨ overlap v0.toNat n v2.toNat n = false)
    (hright : v1 = v3 ∨ overlap v1.toNat n v3.toNat n = false) :
    s.stereoReady { inL := v0.toNat, inR := v1.toNat, outL := v2.toNat, outR := v3.toNat, n := n } := by
  simp only [List.forall_mem_cons] at hpasses
  obtain ⟨m0, m1, m2, m3, -⟩ := hpasses
  have hcount : s.argI32 4 = .ok (n : Int) := by rw [argI32_of_argIs h4, hn]
  refine ⟨argAddr_of_argIs h0, argAddr_of_argIs h1, argAddr_of_argIs h2, argAddr_of_argIs h3, hcount, m0, m1, m2, m3,
    StereoArrays.disjoint_iff.2 ⟨hout, hcrossL, hcrossR, ?_, ?_⟩⟩
  · exact hleft.imp_left (congrArg BitVec.toNat)
  · exact hright.imp_left (congrArg BitVec.toNat)

end StereoTests

section ResampleTests

/-- The tests on the operands of a resampler command once its ARGs are read, in the order of 41 R153. -/
def resampleCheck (inBase : Nat) (n : Int) (outBase : Nat) (count : Int) (inRate outRate : F64) :
    Except Cause ResampleArgs := do
  memCheck inBase n.toNat
  memCheck outBase count.toNat
  if overlap inBase n.toNat outBase count.toNat then .error .memory
  else if n < 0 ∨ count < 0 then .error .precondition
  else if !(positive64 inRate && positive64 outRate) then .error .precondition
  else if !positive64 (div64 [] inRate outRate) then .error .precondition
  else .ok { inBase := inBase, n := n.toNat, outBase := outBase, count := count.toNat,
             ratio := div64 [] inRate outRate }

variable {inBase outBase : Nat} {n count : Int} {inRate outRate : F64}

/-- A resampler command's operands raise MEMORY when an array fails its check or the two overlap (60 R234). -/
theorem resampleCheck_eq_memory
    (h : memCheck inBase n.toNat = .error .memory ∨ memCheck outBase count.toNat = .error .memory ∨
      overlap inBase n.toNat outBase count.toNat = true) :
    resampleCheck inBase n outBase count inRate outRate = .error .memory := by
  refine memCheck_bind_eq_memory fun h0 => memCheck_bind_eq_memory fun h1 => if_pos ?_
  exact (h.resolve_left (by simp [h0])).resolve_left (by simp [h1])

/-- Once the arrays pass, a negative count, or a rate or ratio that is not finite and positive, raises PRECONDITION
(60 R235). -/
theorem resampleCheck_eq_precondition (hin : memCheck inBase n.toNat = .ok ())
    (hout : memCheck outBase count.toNat = .ok ()) (hapart : overlap inBase n.toNat outBase count.toNat = false)
    (h : n < 0 ∨ count < 0 ∨ positive64 inRate = false ∨ positive64 outRate = false ∨
      positive64 (div64 [] inRate outRate) = false) :
    resampleCheck inBase n outBase count inRate outRate = .error .precondition := by
  simp only [resampleCheck, hin, hout, hapart, Bind.bind, Except.bind, Bool.false_eq_true, if_false]
  split_ifs with hcounts hrates hratio
  · rfl
  · rfl
  · rfl
  · simp only [Bool.not_eq_true', Bool.not_eq_false, Bool.and_eq_true] at hrates hratio
    simp [hrates, hratio] at h
    omega

variable {i : Instr} {s : State} {v0 v1 v2 v3 v4 v5 : Reg64} {c : Cause}

/-- With their ARGs written, a resampler command's operands are what the tests make of them (41 R153). -/
theorem resampleArgs_of_argIs (h0 : s.argIs 0 v0) (h1 : s.argIs 1 v1) (h2 : s.argIs 2 v2) (h3 : s.argIs 3 v3)
    (h4 : s.argIs 4 v4) (h5 : s.argIs 5 v5) :
    s.resampleArgs = resampleCheck v0.toNat (lowHalf v1).toInt v2.toNat (lowHalf v3).toInt v4 v5 := by
  rw [State.resampleArgs, argAddr_of_argIs h0, argI32_of_argIs h1, argAddr_of_argIs h2, argI32_of_argIs h3,
    argF64_of_argIs h4, argF64_of_argIs h5]
  rfl

/-- The resampler commands take the fault their operands raise. -/
theorem exec_of_resampleArgs_error (hi : (∃ u, i = .rsDownsample u) ∨ ∃ u, i = .rsUpsample u) (haccepts : s.accepts i)
    (herror : s.resampleArgs = .error c) : exec i s = .next (s.faultEntry s.active (encode i) c) := by
  rcases hi with ⟨u, rfl⟩ | ⟨u, rfl⟩
  · refine exec_of_commandBody_error (not_resumes nofun) haccepts ?_
    rw [commandBody, rsDownsample, herror]
    rfl
  · refine exec_of_commandBody_error (not_resumes nofun) haccepts ?_
    rw [commandBody, rsUpsample, herror]
    rfl

/-- A rate or ratio is positive when it is finite and above zero (41 R153). -/
theorem positive64_iff {r : F64} : positive64 r = true ↔ isFinite64 r = true ∧ gt64 r 0#64 = true :=
  Bool.and_eq_true_iff

theorem positive64_eq_false_iff {r : F64} : positive64 r = false ↔ ¬ (isFinite64 r = true ∧ gt64 r 0#64 = true) := by
  rw [← positive64_iff, Bool.not_eq_true]

end ResampleTests

/-- Settles O17: the forbidden side by what the two checks raise MEMORY on; the allowed side test by test. -/
theorem arrayChecksTakeMemory : Obligations.ArrayChecksTakeMemory := by
  refine ⟨fun i s v0 v1 v2 v3 v4 v5 n hi haccepts h0 h1 h2 h3 h4 h5 hn hbad => ?stereo,
    fun i s v0 v1 v2 v3 v4 v5 n m hi haccepts h0 h1 h2 h3 h4 h5 hn hm hbad => ?resample,
    fun _ _ => memCheck_eq_ok_iff, fun _ _ _ _ => overlap_eq_true_iff,
    fun s v0 v1 v2 v3 v4 n h0 h1 h2 h3 h4 hn hgood hout hcrossL hcrossR hleft hright => ?stereoReady,
    fun s v0 v1 v2 v3 v4 v5 n m h0 h1 h2 h3 h4 h5 hn hm hin hinEnd hout houtEnd hapart hrates => ?resampleReady⟩
  case stereo =>
    refine exec_of_stereoArgs_error hi haccepts h5 ?_
    rw [stereoArgs_of_argIs h0 h1 h2 h3 h4]
    exact stereoCheck_of_forbidden hn hbad
  case resample =>
    refine exec_of_resampleArgs_error hi haccepts ?_
    rw [resampleArgs_of_argIs h0 h1 h2 h3 h4 h5]
    subst hn hm
    refine resampleCheck_eq_memory ?_
    rcases hbad with h | h | h | h | h
    · exact .inl (memCheck_eq_memory (.inl h))
    · exact .inr (.inl (memCheck_eq_memory (.inl h)))
    · exact .inl (memCheck_eq_memory (.inr h))
    · exact .inr (.inl (memCheck_eq_memory (.inr h)))
    · exact .inr (.inr h)
  case stereoReady =>
    exact stereoReady_of_argIs h0 h1 h2 h3 h4 hn (fun v hv => memCheck_eq_ok_iff.2 (hgood v hv))
      (overlap_eq_false.2 hout) (overlap_eq_false.2 hcrossL) (overlap_eq_false.2 hcrossR)
      (hleft.imp_right overlap_eq_false.2) (hright.imp_right overlap_eq_false.2)
  case resampleReady =>
    simp only [List.forall_mem_cons, ← positive64_iff] at hrates
    obtain ⟨hinRate, houtRate, hratio, -⟩ := hrates
    exact ⟨argAddr_of_argIs h0, by rw [argI32_of_argIs h1, hn], argAddr_of_argIs h2, by rw [argI32_of_argIs h3, hm],
      argF64_of_argIs h4, argF64_of_argIs h5, memCheck_eq_ok_iff.2 ⟨hin, hinEnd⟩, memCheck_eq_ok_iff.2 ⟨hout, houtEnd⟩,
      overlap_eq_false_iff.2 hapart, hinRate, houtRate, rfl, hratio⟩

/-- Settles O19: the arrays pass, and the next test of the two checks fails. -/
theorem arrayCommandPreconditions : Obligations.ArrayCommandPreconditions := by
  refine ⟨fun i s v0 v1 v2 v3 v4 v5 hi haccepts h0 h1 h2 h3 h4 h5 haligned hneg => ?stereo,
    fun i s v0 v1 v2 v3 v4 v5 n m hi haccepts h0 h1 h2 h3 h4 h5 hn hm hin hout hapart hbad => ?resample⟩
  case stereo =>
    refine exec_of_stereoArgs_error hi haccepts h5 ?_
    rw [stereoArgs_of_argIs h0 h1 h2 h3 h4]
    exact stereoCheck_eq_precondition (by simpa using haligned) hneg
  case resample =>
    refine exec_of_resampleArgs_error hi haccepts ?_
    rw [resampleArgs_of_argIs h0 h1 h2 h3 h4 h5]
    subst hn hm
    simp only [← positive64_eq_false_iff] at hbad
    exact resampleCheck_eq_precondition hin hout hapart hbad

end Sys2Proof.Machine

/-! ## Ports: the host's ARG and CMD writes and RES reads, on a port with no command and on one that has one
(10 R31; 70 R266) -/

namespace Sys2Proof.Machine

section HostWaits

variable {s t u : State} {p : Port} {rest : List HostEvent}

/-- Taking an act off the host's list leaves every port as it is. -/
@[simp] theorem port_of_inputs (s : State) (p : Port) (rest : List HostEvent) :
    ({ s with inputs := rest } : State).port p = s.port p := by
  cases p <;> rfl

/-- A host write of ARGk lands on an idle port and waits on a busy one (10 R31, 70 R266). -/
theorem step_writeArg {k : Fin 8} {v : Reg64} (h : s.inputs = .writeArg p k v :: rest) :
    step s = if s.busy p then portStep p s else .next (({ s with inputs := rest } : State).writeArg p k v) := by
  simp only [step, machineStep, h, hostStep, State.busy, port_of_inputs]
  rw [← h]
  rfl

/-- A host write of CMD lands on an idle port and waits on a busy one (10 R31, 70 R266). -/
theorem step_writeCmd {w : Word} (h : s.inputs = .writeCmd p w :: rest) :
    step s = if s.busy p then portStep p s else .next (({ s with inputs := rest } : State).writeCmd p w) := by
  simp only [step, machineStep, h, hostStep, State.busy, port_of_inputs]
  rw [← h]
  rfl

/-- A host read of RES goes by on an idle port and waits on a busy one (10 R31, 70 R266). -/
theorem step_readRes {j : Fin 2} (h : s.inputs = .readRes p j :: rest) :
    step s = if s.busy p then portStep p s else .next { s with inputs := rest } := by
  simp only [step, machineStep, h, hostStep, State.busy, port_of_inputs]
  rw [← h]
  rfl

/-- The host's list and the ARGs of the port are as they were, and CMD of the port holds its old word or none: what a
step of the port leaves to an act that waits for it. -/
structure HoldsPort (p : Port) (s t : State) : Prop where
  inputs : t.inputs = s.inputs
  args : (t.port p).args = (s.port p).args
  cmd : (t.port p).cmd = (s.port p).cmd ∨ (t.port p).cmd = none

theorem Keeps.port_args (h : Keeps s t) (p : Port) : (t.port p).args = (s.port p).args := by
  cases p
  exacts [h.a0, h.a1]

theorem Keeps.port_cmd (h : Keeps s t) (p : Port) : (t.port p).cmd = (s.port p).cmd := by
  cases p
  exacts [h.c0, h.c1]

theorem Keeps.holdsPort (h : Keeps s t) (p : Port) : HoldsPort p s t :=
  ⟨h.inputs, h.port_args p, .inl (h.port_cmd p)⟩

theorem HoldsPort.refl (p : Port) (s : State) : HoldsPort p s s := (Keeps.refl s).holdsPort p

theorem HoldsPort.trans (h : HoldsPort p s u) (k : HoldsPort p u t) : HoldsPort p s t where
  inputs := k.inputs.trans h.inputs
  args := k.args.trans h.args
  cmd := k.cmd.elim (fun hcmd => hcmd ▸ h.cmd) .inr

theorem setActive_holdsPort (s : State) (p : Port) : HoldsPort p s { s with active := p } := by
  cases p <;> exact ⟨rfl, rfl, .inl rfl⟩

theorem dropCommand_holdsPort (s : State) (p : Port) : HoldsPort p s (s.dropCommand p) := by
  constructor <;> simp [State.dropCommand]

theorem retire_holdsPort (s : State) (p : Port) (i : Instr) : HoldsPort p s (s.retire p i) := by
  unfold State.retire
  split
  · exact .refl p s
  · exact dropCommand_holdsPort s p

/-- A step of a port holds what the host's waiting act finds: a command reads its ARGs and CMD but writes neither, and
is dropped at most (10 R32, 70 R266). -/
theorem portStep_holdsPort (h : portStep p s = .next t) : HoldsPort p s t := by
  rcases portStep_cases h with ⟨rfl, -⟩ | ⟨w, -, -, rfl⟩ | ⟨w, i, u, -, -, hu, rfl⟩
  · exact .refl p t
  · exact ((keeps_faultEntry s p w .illegal).holdsPort p).trans (dropCommand_holdsPort _ p)
  · exact (setActive_holdsPort s p).trans (((exec_keeps hu).holdsPort p).trans (retire_holdsPort u p i))

/-- Settles O8: what each act does on an idle and on a busy port, then what the port's step holds meanwhile. -/
theorem hostWriteWaitsForBusyPort : Obligations.HostWriteWaitsForBusyPort := by
  refine fun s p rest => ⟨fun hidle => ?idle, fun w e hcmd he hinputs => ?busy⟩
  case idle =>
    have hbusy : s.busy p = false := by simp [State.busy, hidle]
    refine ⟨fun k v h => ?arg, fun w h => ?cmd, fun j h => ?res⟩
    case arg => simp [step_writeArg h, hbusy, State.writeArg]
    case cmd => simp [step_writeCmd h, hbusy, State.writeCmd]
    case res => simp [step_readRes h, hbusy]
  case busy =>
    have hbusy : s.busy p = true := by simp [State.busy, hcmd]
    have hstep : step s = portStep p s := by
      rcases he with ⟨k, v, rfl⟩ | ⟨v, rfl⟩ | ⟨j, rfl⟩
      · rw [step_writeArg hinputs, if_pos hbusy]
      · rw [step_writeCmd hinputs, if_pos hbusy]
      · rw [step_readRes hinputs, if_pos hbusy]
    refine ⟨hstep, fun t ht => ?_⟩
    obtain ⟨inputs, args, cmd⟩ := portStep_holdsPort (hstep ▸ ht)
    exact ⟨inputs, args, hcmd ▸ cmd⟩

end HostWaits

end Sys2Proof.Machine
